-- ==== Sys2Proof/Word.lean ====
section
/-! DEFINITION. The word types of the machine (00_scope.md R9, section Widths). -/

namespace Sys2Proof

/-- u8: register contents and memory cells. -/
abbrev Byte := BitVec 8

/-- u16: `PC`, `I`, stack entries, instruction words. -/
abbrev Word := BitVec 16

/-- u12: the field `nnn`. -/
abbrev Addr12 := BitVec 12

/-- u4: the count `n`, key values, and the nibbles of an instruction word. -/
abbrev Nibble := BitVec 4

/-- u4: the register fields `x` and `y` (all 16 values legal, 30_encoding.md R93). -/
abbrev RegIdx := BitVec 4

end Sys2Proof
end

