-- ==== Sys2Proof/Syntax.lean ====
section
/-! DEFINITION. The 34 instructions of 30_encoding.md R100, one constructor per row of the opcode map. -/

namespace Sys2Proof

/-- One instruction; the comment of each constructor is its pattern, mnemonic and rule (30_encoding.md R100). -/
inductive Instr
  /-- `00E0` CLS (R210) -/
  | cls
  /-- `00EE` RET (R142) -/
  | ret
  /-- `1NNN` JP nnn (R140) -/
  | jp (nnn : Addr12)
  /-- `2NNN` CALL nnn (R141) -/
  | call (nnn : Addr12)
  /-- `3XKK` SE Vx, kk (R144) -/
  | seImm (x : RegIdx) (kk : Byte)
  /-- `4XKK` SNE Vx, kk (R145) -/
  | sneImm (x : RegIdx) (kk : Byte)
  /-- `5XY0` SE Vx, Vy (R146) -/
  | seReg (x y : RegIdx)
  /-- `6XKK` LD Vx, kk (R161) -/
  | ldImm (x : RegIdx) (kk : Byte)
  /-- `7XKK` ADD Vx, kk (R162) -/
  | addImm (x : RegIdx) (kk : Byte)
  /-- `8XY0` LD Vx, Vy (R163) -/
  | ldReg (x y : RegIdx)
  /-- `8XY1` OR Vx, Vy (R164) -/
  | orReg (x y : RegIdx)
  /-- `8XY2` AND Vx, Vy (R165) -/
  | andReg (x y : RegIdx)
  /-- `8XY3` XOR Vx, Vy (R166) -/
  | xorReg (x y : RegIdx)
  /-- `8XY4` ADD Vx, Vy (R167) -/
  | addReg (x y : RegIdx)
  /-- `8XY5` SUB Vx, Vy (R168) -/
  | subReg (x y : RegIdx)
  /-- `8XY6` SHR Vx, Vy (R171) -/
  | shr (x y : RegIdx)
  /-- `8XY7` SUBN Vx, Vy (R172) -/
  | subn (x y : RegIdx)
  /-- `8XYE` SHL Vx, Vy (R173) -/
  | shl (x y : RegIdx)
  /-- `9XY0` SNE Vx, Vy (R147) -/
  | sneReg (x y : RegIdx)
  /-- `ANNN` LD I, nnn (R190) -/
  | ldI (nnn : Addr12)
  /-- `BNNN` JP V0, nnn (R143) -/
  | jpV0 (nnn : Addr12)
  /-- `CXKK` RND Vx, kk (R175) -/
  | rnd (x : RegIdx) (kk : Byte)
  /-- `DXYN` DRW Vx, Vy, n (R211) -/
  | drw (x y : RegIdx) (n : Nibble)
  /-- `EX9E` SKP Vx (R243) -/
  | skp (x : RegIdx)
  /-- `EXA1` SKNP Vx (R244) -/
  | sknp (x : RegIdx)
  /-- `FX07` LD Vx, DT (R240) -/
  | ldVxDT (x : RegIdx)
  /-- `FX0A` LD Vx, K (R245) -/
  | ldVxK (x : RegIdx)
  /-- `FX15` LD DT, Vx (R241) -/
  | ldDT (x : RegIdx)
  /-- `FX18` LD ST, Vx (R242) -/
  | ldST (x : RegIdx)
  /-- `FX1E` ADD I, Vx (R191) -/
  | addI (x : RegIdx)
  /-- `FX29` LD F, Vx (R192) -/
  | ldF (x : RegIdx)
  /-- `FX33` LD B, Vx (R193) -/
  | ldB (x : RegIdx)
  /-- `FX55` LD [I], Vx (R194) -/
  | storeRegs (x : RegIdx)
  /-- `FX65` LD Vx, [I] (R195) -/
  | loadRegs (x : RegIdx)
  deriving DecidableEq, Repr

end Sys2Proof
end

