-- ==== Sys2Proof/WellFormed.lean ====
section
/-! DEFINITION. What is checked of the machine's inputs beyond their types. -/

namespace Sys2Proof

/-- Every term of `Instr` is well formed: each field has its exact width and "all 16 values are legal", every `kk`,
`nnn` and `n` too (30_encoding.md R93). Nothing is left to check, so nothing is refused here; words that are no
instruction are refused by `decode`. -/
abbrev Instr.WellFormed (_i : Instr) : Prop := True

/-- `PROGRAM_MAX`, the room from 0x200 to 0xFFF (00_scope.md R6). -/
def programMax : Nat := 3584

/-- The check `load` makes of a ROM: it fits below 0x1000 (70_reset_and_hazards.md R330). -/
abbrev romFits (rom : List Byte) : Prop := rom.length ≤ programMax

end Sys2Proof
end

