-- ==== Sys2Proof/Decode.lean ====
section
/-! DEFINITION. The decoder of 30_encoding.md R101, total on all words and on any bytes and rejecting by name, then the
encoder written from the patterns of R100, and the opcode map of R100 as rows. -/

namespace Sys2Proof

/-! ### Fields (30_encoding.md R92) -/

/-- `op[15:12]`, the primary opcode. -/
def fieldTop (op : Word) : Nibble := op.extractLsb' 12 4

/-- `x = op[11:8]`. -/
def fieldX (op : Word) : RegIdx := op.extractLsb' 8 4

/-- `y = op[7:4]`. -/
def fieldY (op : Word) : RegIdx := op.extractLsb' 4 4

/-- `n = op[3:0]`. -/
def fieldN (op : Word) : Nibble := op.extractLsb' 0 4

/-- `kk = op[7:0]`. -/
def fieldKK (op : Word) : Byte := op.extractLsb' 0 8

/-- `nnn = op[11:0]`. -/
def fieldNNN (op : Word) : Addr12 := op.extractLsb' 0 12

/-- The big-endian word of two bytes, `(hi << 8) OR lo` (20_memory.md R61, R63). -/
def wordOf (hi lo : Byte) : Word := (hi.setWidth 16 <<< 8) ||| lo.setWidth 16

/-- The byte at the lower address, `op[15:8]` (20_memory.md R61). -/
def highByte (op : Word) : Byte := op.extractLsb' 8 8

/-- The byte at the higher address, `op[7:0]` (20_memory.md R61). -/
def lowByte (op : Word) : Byte := op.extractLsb' 0 8

/-! ### The decoder (30_encoding.md R101) -/

/-- Why a word is illegal (30_encoding.md R103), by its top nibble, or that there are not two bytes to read. -/
inductive Illegal
  /-- Top nibble 0 and not 0x00E0 or 0x00EE. -/
  | top0
  /-- Top nibble 5 with a low nibble other than 0. -/
  | top5
  /-- Top nibble 8 with low nibble 8, 9, 0xA, 0xB, 0xC, 0xD or 0xF. -/
  | top8
  /-- Top nibble 9 with a low nibble other than 0. -/
  | top9
  /-- Top nibble 0xE with a low byte other than 0x9E and 0xA1. -/
  | topE
  /-- Top nibble 0xF with a low byte other than the nine of R101. -/
  | topF
  /-- Fewer than two bytes. -/
  | truncated
  deriving DecidableEq, Repr

/-- What the decoder answers. -/
inductive Decoded
  | instr (i : Instr)
  | illegal (why : Illegal)
  deriving DecidableEq, Repr

/-- Top nibble 0: the whole word is compared. -/
def decode0 (op : Word) : Decoded :=
  if op = 0x00E0 then .instr .cls
  else if op = 0x00EE then .instr .ret
  else .illegal .top0

/-- Top nibble 8: the secondary selector is the low nibble. -/
def decode8 (x y : RegIdx) (fn : Nibble) : Decoded :=
  if fn = 0x0 then .instr (.ldReg x y)
  else if fn = 0x1 then .instr (.orReg x y)
  else if fn = 0x2 then .instr (.andReg x y)
  else if fn = 0x3 then .instr (.xorReg x y)
  else if fn = 0x4 then .instr (.addReg x y)
  else if fn = 0x5 then .instr (.subReg x y)
  else if fn = 0x6 then .instr (.shr x y)
  else if fn = 0x7 then .instr (.subn x y)
  else if fn = 0xE then .instr (.shl x y)
  else .illegal .top8

/-- Top nibble 0xE: the secondary selector is the low byte. -/
def decodeE (x : RegIdx) (fn : Byte) : Decoded :=
  if fn = 0x9E then .instr (.skp x)
  else if fn = 0xA1 then .instr (.sknp x)
  else .illegal .topE

/-- Top nibble 0xF: the secondary selector is the low byte. -/
def decodeF (x : RegIdx) (fn : Byte) : Decoded :=
  if fn = 0x07 then .instr (.ldVxDT x)
  else if fn = 0x0A then .instr (.ldVxK x)
  else if fn = 0x15 then .instr (.ldDT x)
  else if fn = 0x18 then .instr (.ldST x)
  else if fn = 0x1E then .instr (.addI x)
  else if fn = 0x29 then .instr (.ldF x)
  else if fn = 0x33 then .instr (.ldB x)
  else if fn = 0x55 then .instr (.storeRegs x)
  else if fn = 0x65 then .instr (.loadRegs x)
  else .illegal .topF

/-- `decode(op)` (30_encoding.md R101): dispatch on the top nibble, total on all 65536 words. -/
def decode (op : Word) : Decoded :=
  if fieldTop op = 0x0 then decode0 op
  else if fieldTop op = 0x1 then .instr (.jp (fieldNNN op))
  else if fieldTop op = 0x2 then .instr (.call (fieldNNN op))
  else if fieldTop op = 0x3 then .instr (.seImm (fieldX op) (fieldKK op))
  else if fieldTop op = 0x4 then .instr (.sneImm (fieldX op) (fieldKK op))
  else if fieldTop op = 0x5 then
    if fieldN op = 0x0 then .instr (.seReg (fieldX op) (fieldY op)) else .illegal .top5
  else if fieldTop op = 0x6 then .instr (.ldImm (fieldX op) (fieldKK op))
  else if fieldTop op = 0x7 then .instr (.addImm (fieldX op) (fieldKK op))
  else if fieldTop op = 0x8 then decode8 (fieldX op) (fieldY op) (fieldN op)
  else if fieldTop op = 0x9 then
    if fieldN op = 0x0 then .instr (.sneReg (fieldX op) (fieldY op)) else .illegal .top9
  else if fieldTop op = 0xA then .instr (.ldI (fieldNNN op))
  else if fieldTop op = 0xB then .instr (.jpV0 (fieldNNN op))
  else if fieldTop op = 0xC then .instr (.rnd (fieldX op) (fieldKK op))
  else if fieldTop op = 0xD then .instr (.drw (fieldX op) (fieldY op) (fieldN op))
  else if fieldTop op = 0xE then decodeE (fieldX op) (fieldKK op)
  else decodeF (fieldX op) (fieldKK op)

/-- The decoder on bytes as they lie in memory, lowest address first: every instruction is two bytes, the high byte
first (30_encoding.md R90). -/
def decodeBytes : List Byte → Decoded
  | hi :: lo :: _ => decode (wordOf hi lo)
  | _ => .illegal .truncated

/-! ### The encoder (patterns of 30_encoding.md R100, formats of R91) -/

/-- Format `NNN`: the primary opcode, then nnn. -/
def packNNN (top : Nibble) (nnn : Addr12) : Word :=
  (top.setWidth 16 <<< 12) ||| nnn.setWidth 16

/-- Formats `XKK` and `X`: the primary opcode, x, then the low byte. -/
def packXKK (top : Nibble) (x : RegIdx) (kk : Byte) : Word :=
  (top.setWidth 16 <<< 12) ||| (x.setWidth 16 <<< 8) ||| kk.setWidth 16

/-- Formats `XY` and `XYN`: the primary opcode, x, y, then the low nibble. -/
def packXYN (top : Nibble) (x y : RegIdx) (n : Nibble) : Word :=
  (top.setWidth 16 <<< 12) ||| (x.setWidth 16 <<< 8) ||| (y.setWidth 16 <<< 4) ||| n.setWidth 16

/-- The word of an instruction. -/
def encode : Instr → Word
  | .cls => 0x00E0
  | .ret => 0x00EE
  | .jp nnn => packNNN 0x1 nnn
  | .call nnn => packNNN 0x2 nnn
  | .seImm x kk => packXKK 0x3 x kk
  | .sneImm x kk => packXKK 0x4 x kk
  | .seReg x y => packXYN 0x5 x y 0x0
  | .ldImm x kk => packXKK 0x6 x kk
  | .addImm x kk => packXKK 0x7 x kk
  | .ldReg x y => packXYN 0x8 x y 0x0
  | .orReg x y => packXYN 0x8 x y 0x1
  | .andReg x y => packXYN 0x8 x y 0x2
  | .xorReg x y => packXYN 0x8 x y 0x3
  | .addReg x y => packXYN 0x8 x y 0x4
  | .subReg x y => packXYN 0x8 x y 0x5
  | .shr x y => packXYN 0x8 x y 0x6
  | .subn x y => packXYN 0x8 x y 0x7
  | .shl x y => packXYN 0x8 x y 0xE
  | .sneReg x y => packXYN 0x9 x y 0x0
  | .ldI nnn => packNNN 0xA nnn
  | .jpV0 nnn => packNNN 0xB nnn
  | .rnd x kk => packXKK 0xC x kk
  | .drw x y n => packXYN 0xD x y n
  | .skp x => packXKK 0xE x 0x9E
  | .sknp x => packXKK 0xE x 0xA1
  | .ldVxDT x => packXKK 0xF x 0x07
  | .ldVxK x => packXKK 0xF x 0x0A
  | .ldDT x => packXKK 0xF x 0x15
  | .ldST x => packXKK 0xF x 0x18
  | .addI x => packXKK 0xF x 0x1E
  | .ldF x => packXKK 0xF x 0x29
  | .ldB x => packXKK 0xF x 0x33
  | .storeRegs x => packXKK 0xF x 0x55
  | .loadRegs x => packXKK 0xF x 0x65

/-! ### The opcode map (30_encoding.md R100) -/

/-- One row of the opcode map: the mask and the match of its pattern. -/
structure OpRow where
  mask    : Word
  pattern : Word
  deriving DecidableEq, Repr

/-- A word belongs to a row exactly when `op AND mask = match` (30_encoding.md R100). -/
abbrev OpRow.matches (r : OpRow) (op : Word) : Prop := op &&& r.mask = r.pattern

/-- The row of an instruction (30_encoding.md R100, columns mask and match). -/
def Instr.row : Instr → OpRow
  | .cls => ⟨0xFFFF, 0x00E0⟩
  | .ret => ⟨0xFFFF, 0x00EE⟩
  | .jp _ => ⟨0xF000, 0x1000⟩
  | .call _ => ⟨0xF000, 0x2000⟩
  | .seImm _ _ => ⟨0xF000, 0x3000⟩
  | .sneImm _ _ => ⟨0xF000, 0x4000⟩
  | .seReg _ _ => ⟨0xF00F, 0x5000⟩
  | .ldImm _ _ => ⟨0xF000, 0x6000⟩
  | .addImm _ _ => ⟨0xF000, 0x7000⟩
  | .ldReg _ _ => ⟨0xF00F, 0x8000⟩
  | .orReg _ _ => ⟨0xF00F, 0x8001⟩
  | .andReg _ _ => ⟨0xF00F, 0x8002⟩
  | .xorReg _ _ => ⟨0xF00F, 0x8003⟩
  | .addReg _ _ => ⟨0xF00F, 0x8004⟩
  | .subReg _ _ => ⟨0xF00F, 0x8005⟩
  | .shr _ _ => ⟨0xF00F, 0x8006⟩
  | .subn _ _ => ⟨0xF00F, 0x8007⟩
  | .shl _ _ => ⟨0xF00F, 0x800E⟩
  | .sneReg _ _ => ⟨0xF00F, 0x9000⟩
  | .ldI _ => ⟨0xF000, 0xA000⟩
  | .jpV0 _ => ⟨0xF000, 0xB000⟩
  | .rnd _ _ => ⟨0xF000, 0xC000⟩
  | .drw _ _ _ => ⟨0xF000, 0xD000⟩
  | .skp _ => ⟨0xF0FF, 0xE09E⟩
  | .sknp _ => ⟨0xF0FF, 0xE0A1⟩
  | .ldVxDT _ => ⟨0xF0FF, 0xF007⟩
  | .ldVxK _ => ⟨0xF0FF, 0xF00A⟩
  | .ldDT _ => ⟨0xF0FF, 0xF015⟩
  | .ldST _ => ⟨0xF0FF, 0xF018⟩
  | .addI _ => ⟨0xF0FF, 0xF01E⟩
  | .ldF _ => ⟨0xF0FF, 0xF029⟩
  | .ldB _ => ⟨0xF0FF, 0xF033⟩
  | .storeRegs _ => ⟨0xF0FF, 0xF055⟩
  | .loadRegs _ => ⟨0xF0FF, 0xF065⟩

/-- The 34 rows of the opcode map, in its order: the row of each constructor, whatever its operands. -/
def opcodeMap : List OpRow :=
  [Instr.cls, .ret, .jp 0, .call 0, .seImm 0 0, .sneImm 0 0, .seReg 0 0, .ldImm 0 0, .addImm 0 0].map Instr.row ++
  [Instr.ldReg 0 0, .orReg 0 0, .andReg 0 0, .xorReg 0 0, .addReg 0 0, .subReg 0 0, .shr 0 0, .subn 0 0, .shl 0 0].map
    Instr.row ++
  [Instr.sneReg 0 0, .ldI 0, .jpV0 0, .rnd 0 0, .drw 0 0 0, .skp 0, .sknp 0].map Instr.row ++
  [Instr.ldVxDT 0, .ldVxK 0, .ldDT 0, .ldST 0, .addI 0, .ldF 0, .ldB 0, .storeRegs 0, .loadRegs 0].map Instr.row

/-! ### Words as the opcode table numbers them -/

/-- The one word of a table row: its low `nbits` bits are `w`'s, every bit above them is 0. -/
def tableWord (nbits w : Nat) : Word := BitVec.ofNat 16 (w % 2 ^ nbits)

/-- The instruction the decoder reads from a row's word, laid out as the hardware stores it, high byte first
(20_memory.md R61); `none` where the word is illegal. -/
def decodeTableWord (nbits w : Nat) : Option Instr :=
  match decodeBytes [highByte (tableWord nbits w), lowByte (tableWord nbits w)] with
  | .instr i => some i
  | .illegal _ => none

end Sys2Proof
end

