-- ==== Sys2Proof/Config.lean ====
section
/-! DEFINITION. What is fixed for one machine: the open parameters of 00_scope.md R7 and R8, the font of
10_state.md R33, and the free values (`draw`) of 00_scope.md R9. -/

namespace Sys2Proof

/-- `QUIRK_SHIFT_SOURCE` (00_scope.md R7): the operand that 8XY6 and 8XYE shift. -/
inductive ShiftSource
  /-- `VX_IN_PLACE`: V[x] is shifted and y is ignored. -/
  | vxInPlace
  /-- `VY_COPY`: V[y] is shifted into V[x]. -/
  | vyCopy
  deriving DecidableEq, Repr, Inhabited

/-- `QUIRK_SPRITE_EDGE` (00_scope.md R7): what becomes of a pixel coordinate outside 64×32. -/
inductive SpriteEdge
  /-- `CLIP`: the pixel is skipped. -/
  | clip
  /-- `WRAP`: the coordinate is reduced modulo the screen size. -/
  | wrap
  deriving DecidableEq, Repr, Inhabited

/-- `FONT[0..79]` (00_scope.md R8): the 80 glyph bytes, glyph d the five from 5·d (10_state.md R33). -/
abbrev Font := Vector Byte 80

/-- The parameters the model takes as an argument of the step (00_scope.md R7, R8; 10_state.md R41). They stand in
`State.params`, no step changes them, and a statement about every state holds for every value of them (log 1, 3, 4). -/
structure Params where
  shiftSource    : ShiftSource
  spriteEdge     : SpriteEdge
  tickWhenPaused : Bool
  font           : Font
  deriving DecidableEq, Repr, Inhabited

namespace Config

/-- The machine's `QUIRK_SHIFT_SOURCE`: open, no value chosen (92_eei_decisions.md D3; log 1). -/
opaque shiftSource : ShiftSource

/-- The machine's `QUIRK_SPRITE_EDGE`: open, no value chosen (92_eei_decisions.md D4; log 1). -/
opaque spriteEdge : SpriteEdge

/-- `TICK_WHEN_PAUSED` at its default (00_scope.md R8; log 4). -/
def tickWhenPaused : Bool := true

/-- The byte that the `k`-th draw of a run gives to CXKK (42_alu.md R175 `draw u8`): a free value, nothing constrains
it (log 2). -/
opaque drawByte : Nat → Byte

/-- The word that the `k`-th draw of a run gives to FX29 above 0x0F (43_index_memory.md R192 `draw u16`): a free value,
nothing constrains it (log 2). -/
opaque drawWord : Nat → Word

/-- `FONT` at its default (00_scope.md R8), the table of 10_state.md R33 (log 3). -/
def font : Font where
  toArray := List.toArray (
  [0xF0, 0x90, 0x90, 0x90, 0xF0] ++ [0x20, 0x60, 0x20, 0x20, 0x70] ++
  [0xF0, 0x10, 0xF0, 0x80, 0xF0] ++ [0xF0, 0x10, 0xF0, 0x10, 0xF0] ++
  [0x90, 0x90, 0xF0, 0x10, 0x10] ++ [0xF0, 0x80, 0xF0, 0x10, 0xF0] ++
  [0xF0, 0x80, 0xF0, 0x90, 0xF0] ++ [0xF0, 0x10, 0x20, 0x40, 0x40] ++
  [0xF0, 0x90, 0xF0, 0x90, 0xF0] ++ [0xF0, 0x90, 0xF0, 0x10, 0xF0] ++
  [0xF0, 0x90, 0xF0, 0x90, 0x90] ++ [0xE0, 0x90, 0xE0, 0x90, 0xE0] ++
  [0xF0, 0x80, 0x80, 0x80, 0xF0] ++ [0xE0, 0x90, 0x90, 0x90, 0xE0] ++
  [0xF0, 0x80, 0xF0, 0x80, 0xF0] ++ [0xF0, 0x80, 0xF0, 0x80, 0x80] : List Byte)
  size_toArray := rfl

end Config

end Sys2Proof
end

