-- ==== Sys2Proof/Machine/State.lean ====
section
/-! DEFINITION. Every piece of state the spec gives the machine (10_state.md), as plain data, and its value after reset
(10_state.md R42). -/

namespace Sys2Proof.Machine

/-- Memory as the listed cells, addresses strictly rising, none equal to what an unlisted address reads as
(`Memory.unlisted`, its reset contents): the canonical form `Memory.wf`. -/
structure Memory where
  cells : List Host.Cell
  deriving DecidableEq, Repr

/-- `HaltCause` (10_state.md R32; codes in 60_exceptions.md R261). The codes 6 and 7 are never written. -/
inductive HaltCause
  /-- 0: no fault since reset. -/
  | none
  /-- 1: the fetched word matches no row of the opcode map. -/
  | decodeError
  /-- 2: PC above 0x0FFE at the start of a cycle. -/
  | pcOutOfRange
  /-- 3: 2NNN with all 16 stack entries in use. -/
  | stackOverflow
  /-- 4: 00EE with an empty stack. -/
  | stackUnderflow
  /-- 5: FX33, FX55, FX65 or DXYN would touch an address above 0x0FFF. -/
  | memOutOfRange
  deriving DecidableEq, Repr

/-- The events of the three agents (20_memory.md R70, 60_exceptions.md R270): the free-running cycle, the tick, and the
host's port events (60_exceptions.md R285). -/
inductive Event
  /-- A free-running `Cycle` (40_cycle.md R126). -/
  | cycle
  /-- A `Tick` of the timer subsystem (60_exceptions.md R275). -/
  | tick
  /-- `reset()` (70_reset_and_hazards.md R321) -/
  | reset
  /-- `load(bytes)` (70_reset_and_hazards.md R330) -/
  | load (bytes : List Byte)
  /-- `reload()` (70_reset_and_hazards.md R331) -/
  | reload
  /-- `start()` (70_reset_and_hazards.md R335) -/
  | start
  /-- `stop()` (70_reset_and_hazards.md R335) -/
  | stop
  /-- `pause()` (70_reset_and_hazards.md R336) -/
  | pause
  /-- `resume()` (70_reset_and_hazards.md R336) -/
  | resume
  /-- `step()`, a single manual cycle (60_exceptions.md R292) -/
  | step
  /-- `keyDown(k)` (60_exceptions.md R280) -/
  | keyDown (k : Nibble)
  /-- `keyUp(k)` (60_exceptions.md R280) -/
  | keyUp (k : Nibble)
  /-- `frameAck()` (60_exceptions.md R287) -/
  | frameAck
  /-- `getPixel(x, y)` (44_display.md R216) -/
  | getPixel (x y : Nat)
  /-- `frameDirty()` (60_exceptions.md R287) -/
  | frameDirty
  /-- `getDelayTimer()` (60_exceptions.md R285) -/
  | getDelayTimer
  /-- `getSoundTimer()` (60_exceptions.md R285) -/
  | getSoundTimer
  /-- `isWaitingForKey()` (10_state.md R31) -/
  | isWaitingForKey
  /-- `isAlive()` (10_state.md R31) -/
  | isAlive
  /-- `isPaused()` (10_state.md R31) -/
  | isPaused
  /-- `haltInfo()` (10_state.md R32) -/
  | haltInfo
  deriving DecidableEq, Repr

/-- Why `load` or `reload` returns an error (70_reset_and_hazards.md R330, R331). -/
inductive LoadError
  /-- "buffer too large for address space" -/
  | bufferTooLarge
  /-- `reload()` before any successful load -/
  | noRom
  deriving DecidableEq, Repr

/-- What the core puts out: the `Beep` pulse (60_exceptions.md R277) and the results of port events (R285). -/
inductive Output
  | beep
  | loadOk
  | loadFailed (why : LoadError)
  | bit (b : Bool)
  | byte (b : Byte)
  | haltInfo (halted : Bool) (cause : HaltCause) (pc opcode addr : Word)
  deriving DecidableEq, Repr

/-- The machine's state. The comment of each field names its rule in spec/10_state.md; the last four fields are the
model's own (00_scope.md R7 to R9; log 1, 2, 5, 7). -/
structure State where
  /-- `V[0..15]` (R20, R21) -/
  v : Vector Byte 16
  /-- `PC` (R22, R23) -/
  pc : Word
  /-- `I`, the index register (R25) -/
  i : Word
  /-- `SP`, the number of stack entries in use (R26) -/
  sp : Byte
  /-- `Stack[0..15]` (R27) -/
  stack : Vector Word 16
  /-- `DT`, the delay timer (R28) -/
  dt : Byte
  /-- `ST`, the sound timer (R29) -/
  st : Byte
  /-- `Mem[0x000..0xFFF]` (R38) -/
  mem : Memory
  /-- `FB[x][y]`, column then row (R36) -/
  fb : Vector (Vector Bool 32) 64
  /-- `FrameDirty` (R34) -/
  frameDirty : Bool
  /-- `DrewThisCycle` (R34) -/
  drewThisCycle : Bool
  /-- `Loaded` (R30) -/
  loaded : Bool
  /-- `Alive` (R30) -/
  alive : Bool
  /-- `Paused` (R30) -/
  paused : Bool
  /-- `WaitKey` (R30) -/
  waitKey : Bool
  /-- `Halted` (R30) -/
  halted : Bool
  /-- `HaltCause` (R32) -/
  haltCause : HaltCause
  /-- `HaltPC` (R32) -/
  haltPC : Word
  /-- `HaltOpcode` (R32) -/
  haltOpcode : Word
  /-- `HaltAddr` (R32) -/
  haltAddr : Word
  /-- `ProgramSize` (R35) -/
  programSize : Nat
  /-- `LastRom` (R35), absent until the first successful load -/
  lastRom : Option (List Byte)
  /-- `K[0..15]`, the input latch (R37) -/
  keys : Vector Bool 16
  /-- the parameters of the step (R41); no step changes them -/
  params : Params
  /-- how many free values have been drawn -/
  draws : Nat
  /-- the coming events of the host and the timer, oldest first; when none is listed, free-running cycles -/
  events : List Event
  /-- what the core has put out so far, newest first -/
  outputs : List Output
  deriving DecidableEq, Repr

/-- Faults of the model. The faults the spec describes are no faults here: they are next states with `Halted` set
(60_exceptions.md R262; log 8). -/
inductive Fault
  /-- Raised by 00EE alone, when `SP` is above 16 and so `Stack[SP - 1]` does not exist: "SP never leaves 0..16"
  (10_state.md R26), so no run reaches it. Safe (log 9). -/
  | stackPointerIllegal
  deriving DecidableEq, Repr

/-- Refusals of the model. -/
inductive Refusal
  /-- Raised by `exec` for an instruction that has no meaning yet: none is left. Safe. -/
  | notModelled (mnemonic : String)
  deriving DecidableEq, Repr

/-- The state right after power-on (10_state.md R42, 70_reset_and_hazards.md R320). The memory lists nothing: an
unlisted address reads as its reset contents. -/
def State.reset : State where
  v := Vector.replicate 16 0x00
  pc := 0x0200
  i := 0x0000
  sp := 0
  stack := Vector.replicate 16 0x0000
  dt := 0
  st := 0
  mem := ⟨[]⟩
  fb := Vector.replicate 64 (Vector.replicate 32 false)
  frameDirty := true
  drewThisCycle := false
  loaded := false
  alive := false
  paused := false
  waitKey := false
  halted := false
  haltCause := .none
  haltPC := 0x0000
  haltOpcode := 0x0000
  haltAddr := 0x0000
  programSize := 0
  lastRom := none
  keys := Vector.replicate 16 false
  params :=
    { shiftSource := Config.shiftSource
      spriteEdge := Config.spriteEdge
      tickWhenPaused := Config.tickWhenPaused
      font := Config.font }
  draws := 0
  events := []
  outputs := []

end Sys2Proof.Machine
end

