-- ==== Sys2Proof/Machine/Ops.lean ====
section
/-! DEFINITION. The named operations over memory, registers and the framebuffer, the part of a cycle every instruction
shares (40_cycle.md R120), and taking a fault (60_exceptions.md R262) with the one way out of it
(70_reset_and_hazards.md R321). -/

namespace Sys2Proof.Machine

/-! ### Memory (20_memory.md) -/

/-- What an unlisted address reads as: its reset contents, `FONT` at 0x000 to 0x04F and 0x00 above (10_state.md R42). -/
def Memory.unlisted (font : Font) (a : Nat) : Byte := font[a]?.getD 0x00

/-- The byte listed at an address. -/
def Memory.lookup : List Host.Cell → Nat → Option Byte
  | [], _ => none
  | (k, b) :: rest, a => if k = a then some b else lookup rest a

/-- `Mem[a]`, without a range check (00_scope.md R9): every user checks the range first (20_memory.md R63). -/
def Memory.read (m : Memory) (font : Font) (a : Nat) : Byte :=
  (Memory.lookup m.cells a).getD (Memory.unlisted font a)

/-- List a byte at its place, replacing an entry of the same address. -/
def Memory.insertCell (a : Nat) (b : Byte) : List Host.Cell → List Host.Cell
  | [] => [(a, b)]
  | (k, c) :: rest =>
    if a < k then (a, b) :: (k, c) :: rest
    else if a = k then (a, b) :: rest
    else (k, c) :: insertCell a b rest

/-- Remove the entry of an address. -/
def Memory.eraseCell (a : Nat) : List Host.Cell → List Host.Cell
  | [] => []
  | (k, c) :: rest => if k = a then rest else (k, c) :: eraseCell a rest

/-- `Mem[a] <- b` (20_memory.md R64), keeping the canonical form. An address above 0x0FFF does not exist: nothing is
written (R69). -/
def Memory.write (m : Memory) (font : Font) (a : Nat) (b : Byte) : Memory :=
  if a ≤ 0x0FFF then
    ⟨if b = Memory.unlisted font a then Memory.eraseCell a m.cells else Memory.insertCell a b m.cells⟩
  else m

/-- Write bytes from `a` up, ascending (43_index_memory.md R196). -/
def Memory.writeBytes (m : Memory) (font : Font) (a : Nat) : List Byte → Memory
  | [] => m
  | b :: rest => (m.write font a b).writeBytes font (a + 1) rest

/-- The canonical form: addresses strictly rising, all below 0x1000, no entry equal to what its address reads as
unlisted. -/
abbrev Memory.wf (m : Memory) (font : Font) : Prop :=
  m.cells.Pairwise (fun p q => p.1 < q.1) ∧ ∀ c ∈ m.cells, c.1 ≤ 0x0FFF ∧ c.2 ≠ Memory.unlisted font c.1

/-- `Mem[a]` of the machine, whose `FONT` is a parameter (00_scope.md R8). -/
def State.byteAt (s : State) (a : Nat) : Byte := s.mem.read s.params.font a

/-- The big-endian word at `a` and `a + 1` (20_memory.md R61, R63). -/
def State.wordAt (s : State) (a : Nat) : Word := wordOf (s.byteAt a) (s.byteAt (a + 1))

/-- The `n` bytes from `a` up, ascending (43_index_memory.md R196). -/
def State.bytesAt (s : State) (a n : Nat) : List Byte := (List.range n).map fun k => s.byteAt (a + k)

/-- Write bytes from `a` up, ascending (43_index_memory.md R196): nothing but memory changes. -/
def State.storeBytes (s : State) (a : Nat) (bs : List Byte) : State :=
  { s with mem := s.mem.writeBytes s.params.font a bs }

/-! ### Registers -/

/-- `V[x]` (10_state.md R20). -/
def State.reg (s : State) (x : RegIdx) : Byte := s.v[x.toNat]'x.isLt

/-- `V[x] <- b` (10_state.md R20): no register is hard-wired. -/
def State.setReg (s : State) (x : RegIdx) (b : Byte) : State := { s with v := s.v.set x.toNat b x.isLt }

/-- `VF`, another name of `V[15]` (10_state.md R21). -/
def vf : RegIdx := 0xF

/-! ### The framebuffer (10_state.md R36) -/

/-- `FB[px][py]`. -/
def pixel (fb : Vector (Vector Bool 32) 64) (px : Fin 64) (py : Fin 32) : Bool := fb[px][py]

/-- `FB[px][py] <- b`. -/
def setPixel (fb : Vector (Vector Bool 32) 64) (px : Fin 64) (py : Fin 32) (b : Bool) :
    Vector (Vector Bool 32) 64 :=
  fb.set px (fb[px].set py b)

/-- Every pixel false (44_display.md R210). -/
def blankScreen : Vector (Vector Bool 32) 64 := Vector.replicate 64 (Vector.replicate 32 false)

/-! ### The part of a cycle that every instruction shares (40_cycle.md R120) -/

/-- The fetch (40_cycle.md R121): the word at `PC`, when `PC` and `PC + 1` are both below 0x1000. -/
def State.fetch (s : State) : Option Word :=
  if s.pc.toNat ≤ 0x0FFE then some (s.wordAt s.pc.toNat) else none

/-- `PC <- pc0 + 2` and `DrewThisCycle <- 0` (40_cycle.md R122, R123): what precedes the instruction's own effect. The
meanings get the state BEFORE it, so that a fault discards it with everything else (R125; log 12). -/
def State.beginCycle (s : State) : State := { s with pc := s.pc + 2, drewThisCycle := false }

/-- `PC <- PC + 2` once more when the condition holds, on the advanced PC (41_control_flow.md section 3). -/
def State.skipIf (c : Bool) (s : State) : State := if c then { s with pc := s.pc + 2 } else s

/-- Append to what the core has put out. -/
def State.emit (o : Output) (s : State) : State := { s with outputs := o :: s.outputs }

/-! ### Taking a fault, and the way out -/

/-- `raise Cause(...)` (60_exceptions.md R262) at the state before the cycle, so every write of the cycle is discarded
(R263): the halt record is written and `Halted` set, nothing else changes. -/
def State.raise (s : State) (cause : HaltCause) (op addr : Word) : State :=
  { s with haltCause := cause, haltPC := s.pc, haltOpcode := op, haltAddr := addr, halted := true }

/-- `reset()` (70_reset_and_hazards.md R321), with `load` and `reload` the only way out of `Halted` (60_exceptions.md
R264): every element at its reset value but the latch and `LastRom`; the model's own fields stay too. -/
def State.hostReset (s : State) : State :=
  { State.reset with
    keys := s.keys
    lastRom := s.lastRom
    params := s.params
    draws := s.draws
    events := s.events
    outputs := s.outputs }

end Sys2Proof.Machine
end

