-- ==== Sys2Proof/Machine/Operands.lean ====
section
/-! DEFINITION. The operand forms: the shift operand, the address range of a data access, sprite pixels, decimal digits,
glyph addresses and the key latch. -/

namespace Sys2Proof.Machine

/-- The operand of 8XY6 and 8XYE (42_alu.md R170). -/
def shiftOperand : ShiftSource → (vx vy : Byte) → Byte
  | .vxInPlace, vx, _ => vx
  | .vyCopy, _, vy => vy

/-! ### Data addresses (43_index_memory.md R196) -/

/-- Would an access of `n` bytes from `I` up touch an address above 0x0FFF? (43_index_memory.md R193 to R195,
44_display.md R211.) -/
def outOfRange (i : Word) (n : Nat) : Bool := decide (n > 0 ∧ i.toNat + n - 1 > 0x0FFF)

/-- The lowest address above 0x0FFF such an access would touch, `max(I, 0x1000)` (60_exceptions.md R261). -/
def lowestOutOfRange (i : Word) : Word := if i.toNat ≤ 0x1000 then 0x1000 else i

/-- The single check of an instruction that touches `n` bytes from `I` up (60_exceptions.md R265): it raises
`MemOutOfRange` before anything is moved, or gives the instruction's own next state. -/
def checkRange (i : Instr) (n : Nat) (s next : State) : State :=
  if outOfRange s.i n then s.raise .memOutOfRange (encode i) (lowestOutOfRange s.i) else next

/-- `V[0]` to `V[x]` in order (43_index_memory.md R194). -/
def State.regsUpTo (s : State) (x : RegIdx) : List Byte :=
  (List.range (x.toNat + 1)).map fun k => s.reg (BitVec.ofNat 4 k)

/-- The register file after `V[k] <- b` for the bytes of a list, ascending from `k` (43_index_memory.md R195). -/
def setRegsFrom (v : Vector Byte 16) (k : Nat) : List Byte → Vector Byte 16
  | [] => v
  | b :: rest => setRegsFrom (v.setIfInBounds k b) (k + 1) rest

/-- The hundreds, tens and ones digit of a byte (43_index_memory.md R193). -/
def decimalDigits (b : Byte) : List Byte :=
  [BitVec.ofNat 8 (b.toNat / 100), BitVec.ofNat 8 (b.toNat / 10 % 10), BitVec.ofNat 8 (b.toNat % 10)]

/-- The address of the glyph of a hex digit, `5 * d` (43_index_memory.md R192). -/
def glyphAddr (d : Byte) : Word := BitVec.ofNat 16 (5 * d.toNat)

/-! ### Sprite pixels (44_display.md R212, R213) -/

/-- `target(tx, ty)`: the pixel that a coordinate names, or none where the clip policy skips it. -/
def target (edge : SpriteEdge) (tx ty : Nat) : Option (Fin 64 × Fin 32) :=
  match edge with
  | .clip => if h : tx < 64 ∧ ty < 32 then some (⟨tx, h.1⟩, ⟨ty, h.2⟩) else none
  | .wrap => some (⟨tx % 64, Nat.mod_lt _ (by decide)⟩, ⟨ty % 32, Nat.mod_lt _ (by decide)⟩)

/-- The bit of a sprite row at column offset `c`, most significant bit first (44_display.md R212). -/
def spriteBit (row : Byte) (c : Nat) : Bool := row.getLsbD (7 - c)

/-! ### The input latch (60_exceptions.md R281) -/

/-- Is the key named by a whole 8-bit value down? A value above 0x0F is never a key (45_timers_keys.md R243). -/
def State.keyIsDown (s : State) (b : Byte) : Bool := if h : b.toNat < 16 then s.keys[b.toNat] else false

/-- `lowestDown()`: the least key that is down, if any is (45_timers_keys.md R245). -/
def State.lowestDown (s : State) : Option (Fin 16) := (List.finRange 16).find? fun k => s.keys[k]

end Sys2Proof.Machine
end

