-- ==== Sys2Proof/Machine/Flags.lean ====
section
/-! DEFINITION. The values that go to VF (10_state.md R40) and the two orders in which a flag and a result are written
(42_alu.md R160). -/

namespace Sys2Proof.Machine

/-- A condition as the byte VF holds: 1 or 0. -/
def flagByte (c : Bool) : Byte := if c then 1 else 0

/-- Carry out of bit 7 of an addition (42_alu.md R167, R169). -/
def carryFlag (a b : Byte) : Byte := flagByte (decide (a.toNat + b.toNat > 255))

/-- 1 when `a - b` needs no borrow, 0 on a borrow (42_alu.md R168, R169). -/
def noBorrowFlag (a b : Byte) : Byte := flagByte (decide (a.toNat ≥ b.toNat))

/-- The bit a right shift by one shifts out, bit 0 (42_alu.md R171). -/
def shrFlag (a : Byte) : Byte := flagByte (a.getLsbD 0)

/-- The bit a left shift by one shifts out, bit 7 (42_alu.md R173). -/
def shlFlag (a : Byte) : Byte := flagByte (a.getLsbD 7)

/-- `VF <- flag`, then `V[x] <- result`: with x = 0xF the result stays (8XY4 to 8XY7, 8XYE). -/
def State.flagThenResult (s : State) (x : RegIdx) (flag result : Byte) : State :=
  (s.setReg vf flag).setReg x result

/-- `V[x] <- result`, then `VF <- 0`: with x = 0xF the 0 stays (8XY1, 8XY2, 8XY3). -/
def State.resultThenZero (s : State) (x : RegIdx) (result : Byte) : State :=
  (s.setReg x result).setReg vf 0

end Sys2Proof.Machine
end

