-- ==== Sys2Proof/Machine/Alu.lean ====
section
/-! DEFINITION. Register load, arithmetic, logic, shift and random (42_alu.md): 6XKK, 7XKK, 8XY0 to 8XY7, 8XYE, CXKK.
Operands are read before anything is written (R160). -/

namespace Sys2Proof.Machine

/-- `6XKK` (R161). -/
def execLdImm (x : RegIdx) (kk : Byte) (s : State) : Host.Outcome State Fault Refusal :=
  .next (s.beginCycle.setReg x kk)

/-- `7XKK` (R162): wraps modulo 256 and records no carry. -/
def execAddImm (x : RegIdx) (kk : Byte) (s : State) : Host.Outcome State Fault Refusal :=
  .next (s.beginCycle.setReg x (s.reg x + kk))

/-- `8XY0` (R163). -/
def execLdReg (x y : RegIdx) (s : State) : Host.Outcome State Fault Refusal :=
  .next (s.beginCycle.setReg x (s.reg y))

/-- `8XY1` (R164). -/
def execOrReg (x y : RegIdx) (s : State) : Host.Outcome State Fault Refusal :=
  .next (s.beginCycle.resultThenZero x (s.reg x ||| s.reg y))

/-- `8XY2` (R165). -/
def execAndReg (x y : RegIdx) (s : State) : Host.Outcome State Fault Refusal :=
  .next (s.beginCycle.resultThenZero x (s.reg x &&& s.reg y))

/-- `8XY3` (R166). -/
def execXorReg (x y : RegIdx) (s : State) : Host.Outcome State Fault Refusal :=
  .next (s.beginCycle.resultThenZero x (s.reg x ^^^ s.reg y))

/-- `8XY4` (R167). -/
def execAddReg (x y : RegIdx) (s : State) : Host.Outcome State Fault Refusal :=
  .next (s.beginCycle.flagThenResult x (carryFlag (s.reg x) (s.reg y)) (s.reg x + s.reg y))

/-- `8XY5` (R168). -/
def execSubReg (x y : RegIdx) (s : State) : Host.Outcome State Fault Refusal :=
  .next (s.beginCycle.flagThenResult x (noBorrowFlag (s.reg x) (s.reg y)) (s.reg x - s.reg y))

/-- `8XY7` (R172): V[y] minus V[x]. -/
def execSubn (x y : RegIdx) (s : State) : Host.Outcome State Fault Refusal :=
  .next (s.beginCycle.flagThenResult x (noBorrowFlag (s.reg y) (s.reg x)) (s.reg y - s.reg x))

/-- `8XY6` (R171) on the shift operand of R170. -/
def execShr (x y : RegIdx) (s : State) : Host.Outcome State Fault Refusal :=
  let a := shiftOperand s.params.shiftSource (s.reg x) (s.reg y)
  .next (s.beginCycle.flagThenResult x (shrFlag a) (a >>> 1))

/-- `8XYE` (R173) on the shift operand of R170. -/
def execShl (x y : RegIdx) (s : State) : Host.Outcome State Fault Refusal :=
  let a := shiftOperand s.params.shiftSource (s.reg x) (s.reg y)
  .next (s.beginCycle.flagThenResult x (shlFlag a) (a <<< 1))

/-- `CXKK` (R175): a drawn byte AND kk; the draw is a free value (log 2). -/
def execRnd (x : RegIdx) (kk : Byte) (s : State) : Host.Outcome State Fault Refusal :=
  .next { s.beginCycle.setReg x (Config.drawByte s.draws &&& kk) with draws := s.draws + 1 }

end Sys2Proof.Machine
end

