-- ==== Sys2Proof/Machine/ControlFlow.lean ====
section
/-! DEFINITION. Control transfer (41_control_flow.md): 1NNN, BNNN, 2NNN, 00EE, 3XKK, 4XKK, 5XY0, 9XY0. Each meaning
takes the state before the cycle's own writes; `beginCycle` makes them (40_cycle.md R120). -/

namespace Sys2Proof.Machine

/-- `1NNN` (R140). -/
def execJp (nnn : Addr12) (s : State) : Host.Outcome State Fault Refusal :=
  .next { s.beginCycle with pc := nnn.setWidth 16 }

/-- `BNNN` (R143): V[0] whatever nnn is, no reduction modulo 4096. -/
def execJpV0 (nnn : Addr12) (s : State) : Host.Outcome State Fault Refusal :=
  .next { s.beginCycle with pc := nnn.setWidth 16 + (s.reg 0).setWidth 16 }

/-- `2NNN` (R141): the advanced PC is pushed; `StackOverflow` with all 16 entries in use. -/
def execCall (nnn : Addr12) (s : State) : Host.Outcome State Fault Refusal :=
  if h : s.sp.toNat < 16 then
    .next { s.beginCycle with
      stack := s.stack.set s.sp.toNat s.beginCycle.pc h
      sp := s.sp + 1
      pc := nnn.setWidth 16 }
  else .next (s.raise .stackOverflow (encode (.call nnn)) 0)

/-- `00EE` (R142): `StackUnderflow` on an empty stack. An SP above 16 never occurs (10_state.md R26); there the model
stops (log 9). -/
def execRet (s : State) : Host.Outcome State Fault Refusal :=
  if s.sp = 0 then .next (s.raise .stackUnderflow (encode .ret) 0)
  else if h : s.sp.toNat - 1 < 16 then
    .next { s.beginCycle with sp := s.sp - 1, pc := s.stack[s.sp.toNat - 1] }
  else .fault .stackPointerIllegal

/-- `3XKK` (R144). -/
def execSeImm (x : RegIdx) (kk : Byte) (s : State) : Host.Outcome State Fault Refusal :=
  .next (s.beginCycle.skipIf (s.reg x == kk))

/-- `4XKK` (R145). -/
def execSneImm (x : RegIdx) (kk : Byte) (s : State) : Host.Outcome State Fault Refusal :=
  .next (s.beginCycle.skipIf (s.reg x != kk))

/-- `5XY0` (R146). -/
def execSeReg (x y : RegIdx) (s : State) : Host.Outcome State Fault Refusal :=
  .next (s.beginCycle.skipIf (s.reg x == s.reg y))

/-- `9XY0` (R147). -/
def execSneReg (x y : RegIdx) (s : State) : Host.Outcome State Fault Refusal :=
  .next (s.beginCycle.skipIf (s.reg x != s.reg y))

end Sys2Proof.Machine
end

