-- ==== Sys2Proof/Machine/Display.lean ====
section
/-! DEFINITION. The framebuffer controller and its instructions (44_display.md): 00E0, DXYN. -/

namespace Sys2Proof.Machine

/-- What the sprite engine works on: the framebuffer and whether a pixel collided so far. -/
structure Canvas where
  fb : Vector (Vector Bool 32) 64
  collision : Bool
  deriving DecidableEq, Repr

/-- One sprite pixel (R211, R214): the target becomes `old XOR bit`, and `old AND bit` is a collision; a pixel the edge
policy skips is not touched. -/
def drawPixel (edge : SpriteEdge) (tx ty : Nat) (bit : Bool) (c : Canvas) : Canvas :=
  match target edge tx ty with
  | none => c
  | some (px, py) =>
    { fb := setPixel c.fb px py (pixel c.fb px py ^^ bit)
      collision := c.collision || (pixel c.fb px py && bit) }

/-- One sprite row at screen row `ty`: bits 7 down to 0 at columns `ox` up (R212). -/
def drawRow (edge : SpriteEdge) (ox ty : Nat) (row : Byte) (c : Canvas) : Canvas :=
  (List.range 8).foldl (fun c k => drawPixel edge (ox + k) ty (spriteBit row k) c) c

/-- The rows of a sprite at screen rows `oy` up (R211). -/
def drawRows (edge : SpriteEdge) (ox oy : Nat) : List Byte → Canvas → Canvas
  | [], c => c
  | row :: rest, c => drawRows edge ox (oy + 1) rest (drawRow edge ox oy row c)

/-- `00E0` (R210, R215). -/
def execCls (s : State) : Host.Outcome State Fault Refusal :=
  .next { s.beginCycle with fb := blankScreen, frameDirty := true }

/-- The framebuffer and the collision after the n-row sprite at I is drawn with its origin at (V[x], V[y]) (R211). All
n bytes are read first. -/
def State.drawSprite (s : State) (x y : RegIdx) (n : Nibble) : Canvas :=
  drawRows s.params.spriteEdge (s.reg x).toNat (s.reg y).toNat (s.bytesAt s.i.toNat n.toNat)
    { fb := s.fb, collision := false }

/-- `DXYN` (R211): the n sprite bytes are range-checked before anything is drawn; VF receives the collision,
`FrameDirty` is set when n > 0 and `DrewThisCycle` always (R215). -/
def execDrw (x y : RegIdx) (n : Nibble) (s : State) : Host.Outcome State Fault Refusal :=
  .next (checkRange (.drw x y n) n.toNat s
    { s.beginCycle.setReg vf (flagByte (s.drawSprite x y n).collision) with
      fb := (s.drawSprite x y n).fb
      frameDirty := s.frameDirty || decide (n.toNat > 0)
      drewThisCycle := true })

/-- The result of `getPixel(x, y)` (R216): outside the grid it follows the edge policy, false under `CLIP`. -/
def State.getPixel (s : State) (x y : Nat) : Bool :=
  match target s.params.spriteEdge x y with
  | none => false
  | some (px, py) => pixel s.fb px py

end Sys2Proof.Machine
end

