-- ==== Sys2Proof/Machine/IndexMemory.lean ====
section
/-! DEFINITION. The index register and memory (43_index_memory.md): ANNN, FX1E, FX29, FX33, FX55, FX65. -/

namespace Sys2Proof.Machine

/-- `ANNN` (R190). -/
def execLdI (nnn : Addr12) (s : State) : Host.Outcome State Fault Refusal :=
  .next { s.beginCycle with i := nnn.setWidth 16 }

/-- `FX1E` (R191): modulo 65536, no flag. -/
def execAddI (x : RegIdx) (s : State) : Host.Outcome State Fault Refusal :=
  .next { s.beginCycle with i := s.i + (s.reg x).setWidth 16 }

/-- `FX29` (R192): the glyph of V[x]; above 0x0F, where the rule states no value, a drawn word (log 2). -/
def execLdF (x : RegIdx) (s : State) : Host.Outcome State Fault Refusal :=
  .next (if (s.reg x).toNat ≤ 0x0F then { s.beginCycle with i := glyphAddr (s.reg x) }
    else { s.beginCycle with i := Config.drawWord s.draws, draws := s.draws + 1 })

/-- `FX33` (R193). -/
def execLdB (x : RegIdx) (s : State) : Host.Outcome State Fault Refusal :=
  .next (checkRange (.ldB x) 3 s
    (s.beginCycle.storeBytes s.i.toNat (decimalDigits (s.reg x))))

/-- `FX55` (R194). -/
def execStoreRegs (x : RegIdx) (s : State) : Host.Outcome State Fault Refusal :=
  .next (checkRange (.storeRegs x) (x.toNat + 1) s
    { s.beginCycle.storeBytes s.i.toNat (s.regsUpTo x) with i := s.i + x.setWidth 16 + 1 })

/-- `FX65` (R195). -/
def execLoadRegs (x : RegIdx) (s : State) : Host.Outcome State Fault Refusal :=
  .next (checkRange (.loadRegs x) (x.toNat + 1) s
    { s.beginCycle with
      v := setRegsFrom s.v 0 (s.bytesAt s.i.toNat (x.toNat + 1))
      i := s.i + x.setWidth 16 + 1 })

end Sys2Proof.Machine
end

