-- ==== Sys2Proof/Machine/TimersKeys.lean ====
section
/-! DEFINITION. Timer and key instructions (45_timers_keys.md): FX07, FX15, FX18, EX9E, EXA1, FX0A; and the events of
the timer subsystem and the latch (60_exceptions.md R275 to R281). -/

namespace Sys2Proof.Machine

/-- `FX07` (R240). -/
def execLdVxDT (x : RegIdx) (s : State) : Host.Outcome State Fault Refusal :=
  .next (s.beginCycle.setReg x s.dt)

/-- `FX15` (R241). -/
def execLdDT (x : RegIdx) (s : State) : Host.Outcome State Fault Refusal :=
  .next { s.beginCycle with dt := s.reg x }

/-- The Beep of an event that takes ST from `old` to `new`: emitted when ST becomes exactly 1 from another value
(60_exceptions.md R277). -/
def State.beepOn (old new : Byte) (s : State) : State :=
  if new = 1 ∧ old ≠ 1 then s.emit .beep else s

/-- `FX18` (R242). -/
def execLdST (x : RegIdx) (s : State) : Host.Outcome State Fault Refusal :=
  .next (State.beepOn s.st (s.reg x) { s.beginCycle with st := s.reg x })

/-- `EX9E` (R243). -/
def execSkp (x : RegIdx) (s : State) : Host.Outcome State Fault Refusal :=
  .next (s.beginCycle.skipIf (s.keyIsDown (s.reg x)))

/-- `EXA1` (R244). -/
def execSknp (x : RegIdx) (s : State) : Host.Outcome State Fault Refusal :=
  .next (s.beginCycle.skipIf (!s.keyIsDown (s.reg x)))

/-- `FX0A` (R245): with no key down PC goes back to the instruction and `WaitKey` is set; else the least key down goes
to V[x] and stays in the latch. -/
def execLdVxK (x : RegIdx) (s : State) : Host.Outcome State Fault Refusal :=
  .next (match s.lowestDown with
    | none => { s.beginCycle with pc := s.beginCycle.pc - 2, waitKey := true }
    | some k => { s.beginCycle.setReg x (BitVec.ofNat 8 k.val) with waitKey := false })

/-- A counter "clamped at 0 (never wraps below zero)" (10_state.md R28). -/
def countDown (t : Byte) : Byte := if t.toNat > 0 then t - 1 else t

/-- The `Tick` event (60_exceptions.md R275). -/
def State.tick (s : State) : State :=
  State.beepOn s.st (countDown s.st) { s with dt := countDown s.dt, st := countDown s.st }

/-- When a Tick happens (60_exceptions.md R276). -/
def State.tickEnabled (s : State) : Bool := s.alive && !s.halted && (!s.paused || s.params.tickWhenPaused)

/-- `keyDown(k)` and `keyUp(k)` (60_exceptions.md R280). -/
def State.setKey (s : State) (k : Nibble) (down : Bool) : State := { s with keys := s.keys.set k.toNat down k.isLt }

end Sys2Proof.Machine
end

