-- ==== Sys2Proof/Machine/HostPorts.lean ====
section
/-! DEFINITION. The cycle (40_cycle.md R120), the host's ports (60_exceptions.md R285, 70_reset_and_hazards.md R321 to
R336), the view of the run flags (10_state.md R31), and what one event does. -/

namespace Sys2Proof.Machine

/-! ### The cycle -/

/-- One Cycle (40_cycle.md R120): the fetch check, the fetch, the decode check, the instruction, in the fixed order of
60_exceptions.md R265. -/
def cycle (s : State) : Host.Outcome State Fault Refusal :=
  match s.fetch with
  | none => .next (s.raise .pcOutOfRange 0 0)
  | some op =>
    match decode op with
    | .illegal _ => .next (s.raise .decodeError op 0)
    | .instr i => exec i s

/-- When a free-running Cycle happens (40_cycle.md R126). -/
def State.cycleEnabled (s : State) : Bool := s.alive && !s.halted && !s.paused

/-- When `step()` performs a Cycle: whatever `Paused` is (60_exceptions.md R292). -/
def State.stepEnabled (s : State) : Bool := s.alive && !s.halted

/-! ### The view of the run flags -/

/-- KG's five states (10_state.md R31). -/
inductive View
  | idle
  | running
  | waitingForKey
  | paused
  | halted
  deriving DecidableEq, Repr

/-- The view, tested in the order of 10_state.md R31. -/
def State.view (s : State) : View :=
  if s.halted then .halted
  else if !s.alive then .idle
  else if s.paused then .paused
  else if s.waitKey then .waitingForKey
  else .running

/-! ### Commands -/

/-- `load(bytes)` (70_reset_and_hazards.md R330): an error changes nothing; else a full reset, then the bytes verbatim
from 0x200. -/
def State.load (s : State) (bytes : List Byte) : State :=
  if romFits bytes then
    State.emit .loadOk
      { s.hostReset.storeBytes 0x200 bytes with
        programSize := bytes.length
        loaded := true
        lastRom := some bytes }
  else s.emit (.loadFailed .bufferTooLarge)

/-- `reload()` (70_reset_and_hazards.md R331). -/
def State.reload (s : State) : State :=
  match s.lastRom with
  | some rom => s.load rom
  | none => s.emit (.loadFailed .noRom)

/-- When `start()` takes effect (70_reset_and_hazards.md R335). -/
def State.startEnabled (s : State) : Bool := s.loaded && !s.alive && !s.halted

/-- `start()` (70_reset_and_hazards.md R335). -/
def State.start (s : State) : State := if s.startEnabled then { s with alive := true, paused := false } else s

/-- `stop()` (70_reset_and_hazards.md R335). -/
def State.stop (s : State) : State := { s with alive := false }

/-- `pause()` (70_reset_and_hazards.md R336). -/
def State.pause (s : State) : State := if s.alive && !s.halted then { s with paused := true } else s

/-- `resume()` (70_reset_and_hazards.md R336). -/
def State.resume (s : State) : State := { s with paused := false }

/-- `frameAck()` (60_exceptions.md R287). -/
def State.frameAck (s : State) : State := { s with frameDirty := false }

/-! ### Queries (60_exceptions.md R285): each changes no state but puts out its result. -/

/-- `isAlive()`: `Alive AND NOT Halted` (10_state.md R31). -/
def State.isAlive (s : State) : Bool := s.alive && !s.halted

/-- `haltInfo()` (10_state.md R32). -/
def State.haltInfo (s : State) : Output := .haltInfo s.halted s.haltCause s.haltPC s.haltOpcode s.haltAddr

/-- The output level `drew` (60_exceptions.md R285). -/
def State.drew (s : State) : Bool := s.drewThisCycle

/-! ### Events -/

/-- What one event does (20_memory.md R70). A Cycle or Tick that is not enabled, and a command that does not apply, does
nothing (92_eei_decisions.md D8; log 16). -/
def perform (e : Event) (s : State) : Host.Outcome State Fault Refusal :=
  match e with
  | .cycle => if s.cycleEnabled then cycle s else .next s
  | .step => if s.stepEnabled then cycle s else .next s
  | .tick => .next (if s.tickEnabled then s.tick else s)
  | .reset => .next s.hostReset
  | .load bytes => .next (s.load bytes)
  | .reload => .next s.reload
  | .start => .next s.start
  | .stop => .next s.stop
  | .pause => .next s.pause
  | .resume => .next s.resume
  | .keyDown k => .next (s.setKey k true)
  | .keyUp k => .next (s.setKey k false)
  | .frameAck => .next s.frameAck
  | .getPixel x y => .next (s.emit (.bit (s.getPixel x y)))
  | .frameDirty => .next (s.emit (.bit s.frameDirty))
  | .getDelayTimer => .next (s.emit (.byte s.dt))
  | .getSoundTimer => .next (s.emit (.byte s.st))
  | .isWaitingForKey => .next (s.emit (.bit s.waitKey))
  | .isAlive => .next (s.emit (.bit s.isAlive))
  | .isPaused => .next (s.emit (.bit s.paused))
  | .haltInfo => .next (s.emit s.haltInfo)

/-- The next event of the one total order of events (20_memory.md R71): the oldest listed one, or a free-running Cycle
when none is listed (log 5, 6). -/
def nextEvent (s : State) : Host.Outcome State Fault Refusal :=
  match s.events with
  | [] => perform .cycle s
  | e :: rest => perform e { s with events := rest }

/-- Place a word where the next Cycle fetches it, and make that Cycle the next event (log 11): the bytes high first at
PC (at 0x200 if no word can be fetched at PC), the core alive, not paused, not halted, no event listed. -/
def State.placeWord (s : State) (op : Word) : State :=
  let pc : Word := if s.pc.toNat ≤ 0x0FFE then s.pc else 0x0200
  { s.storeBytes pc.toNat [highByte op, lowByte op] with
    pc := pc
    alive := true
    paused := false
    halted := false
    events := [] }

end Sys2Proof.Machine
end

