-- ==== Sys2Proof/Machine/Step.lean ====
section
/-! DEFINITION. One step of the machine: one atomic event (20_memory.md R70). -/

namespace Sys2Proof.Machine

/-- One atomic event. -/
def step (s : State) : Host.Outcome State Fault Refusal := nextEvent s

/-- `s` with a word of the opcode table as the instruction the next step runs (log 11). -/
def State.withFetchWord (s : State) (nbits w : Nat) : State := s.placeWord (tableWord nbits w)

end Sys2Proof.Machine
end

