-- ==== Sys2Proof/Safety.lean ====
section
/-! DEFINITION. The terms in which claims are stated: the parts of the state and what leaves them unchanged, halting with
a record, when an instruction faults, the invariant of the machine, and the frame schedule. -/

namespace Sys2Proof.Machine

/-! ### Frames -/

/-- The parts of the state a claim can name: every field of `State` is in exactly one. -/
inductive Part
  | v | pc | i | sp | stack | dt | st | mem | fb | frameDirty | drewThisCycle
  | loaded | alive | paused | waitKey | halted | haltRecord
  | programSize | lastRom | keys | params | draws | events | outputs
  deriving DecidableEq, Repr

/-- `s` and `t` agree on a part; on memory, byte by byte: every address reads as before. -/
def Unchanged (s t : State) : Part → Prop
  | .v => ∀ r, t.reg r = s.reg r
  | .pc => t.pc = s.pc
  | .i => t.i = s.i
  | .sp => t.sp = s.sp
  | .stack => t.stack = s.stack
  | .dt => t.dt = s.dt
  | .st => t.st = s.st
  | .mem => ∀ a, t.byteAt a = s.byteAt a
  | .fb => ∀ px py, pixel t.fb px py = pixel s.fb px py
  | .frameDirty => t.frameDirty = s.frameDirty
  | .drewThisCycle => t.drewThisCycle = s.drewThisCycle
  | .loaded => t.loaded = s.loaded
  | .alive => t.alive = s.alive
  | .paused => t.paused = s.paused
  | .waitKey => t.waitKey = s.waitKey
  | .halted => t.halted = s.halted
  | .haltRecord => t.haltCause = s.haltCause ∧ t.haltPC = s.haltPC ∧ t.haltOpcode = s.haltOpcode ∧ t.haltAddr = s.haltAddr
  | .programSize => t.programSize = s.programSize
  | .lastRom => t.lastRom = s.lastRom
  | .keys => t.keys = s.keys
  | .params => t.params = s.params
  | .draws => t.draws = s.draws
  | .events => t.events = s.events
  | .outputs => t.outputs = s.outputs

/-- Every part but the listed ones is unchanged. -/
def UnchangedExcept (ps : List Part) (s t : State) : Prop := ∀ p, p ∉ ps → Unchanged s t p

/-! ### Faults -/

/-- The cycle that began at `s` halts: it answers a next state with `Halted` set and the halt record written, and
everything else, PC and `DrewThisCycle` included, as before the cycle (60_exceptions.md R262, R263). -/
def HaltsWith (o : Host.Outcome State Fault Refusal) (s : State) (cause : HaltCause) (op addr : Word) : Prop :=
  ∃ t, o = .next t ∧ t.halted = true ∧ t.haltCause = cause ∧ t.haltPC = s.pc ∧ t.haltOpcode = op ∧
    t.haltAddr = addr ∧ UnchangedExcept [.halted, .haltRecord] s t

/-- A step at `s` begins a Cycle at `s'`, which is `s` without the event the step performs: a free-running Cycle, listed or
not, when the core is not paused (40_cycle.md R126), or a `step()` (60_exceptions.md R292). -/
def BeginsCycle (s s' : State) : Prop :=
  s'.alive = true ∧ s'.halted = false ∧
    ((s.events = [] ∧ s' = s ∧ s'.paused = false) ∨
      (∃ es, s.events = .cycle :: es ∧ s' = { s with events := es } ∧ s'.paused = false) ∨
      (∃ es, s.events = .step :: es ∧ s' = { s with events := es }))

/-- The code of a fault cause (60_exceptions.md R261). -/
def HaltCause.code : HaltCause → BitVec 3
  | .none => 0
  | .decodeError => 1
  | .pcOutOfRange => 2
  | .stackOverflow => 3
  | .stackUnderflow => 4
  | .memOutOfRange => 5

/-- The column "exactly when" of 60_exceptions.md R261 for the causes a decoded instruction raises. -/
def FaultsOn (s : State) : Instr → Option HaltCause
  | .call _ => if s.sp.toNat ≥ 16 then some .stackOverflow else none
  | .ret => if s.sp.toNat = 0 then some .stackUnderflow else none
  | .ldB _ => if s.i.toNat + 2 > 0x0FFF then some .memOutOfRange else none
  | .storeRegs x => if s.i.toNat + x.toNat > 0x0FFF then some .memOutOfRange else none
  | .loadRegs x => if s.i.toNat + x.toNat > 0x0FFF then some .memOutOfRange else none
  | .drw _ _ n => if n.toNat > 0 ∧ s.i.toNat + n.toNat - 1 > 0x0FFF then some .memOutOfRange else none
  | _ => none

/-- The instructions that write VF as a side effect (10_state.md R40). -/
def writesFlag : Instr → Bool
  | .orReg _ _ | .andReg _ _ | .xorReg _ _ | .addReg _ _ | .subReg _ _ | .subn _ _ | .shr _ _ | .shl _ _ | .drw _ _ _ =>
    true
  | _ => false

/-- The registers an instruction names as its destination. -/
def namesDestination (r : RegIdx) : Instr → Bool
  | .ldImm x _ | .addImm x _ | .ldReg x _ | .orReg x _ | .andReg x _ | .xorReg x _ | .addReg x _ | .subReg x _
  | .subn x _ | .shr x _ | .shl x _ | .rnd x _ | .ldVxDT x | .ldVxK x => r == x
  | .loadRegs x => decide (r.toNat ≤ x.toNat)
  | _ => false

/-- The table of 41_control_flow.md R148: PC after a completed cycle that began at `s`. -/
def pcAfter (s : State) : Instr → Word
  | .jp nnn => nnn.setWidth 16
  | .jpV0 nnn => nnn.setWidth 16 + (s.reg 0).setWidth 16
  | .call nnn => nnn.setWidth 16
  | .ret => (s.stack[s.sp.toNat - 1]?).getD 0
  | .seImm x kk => if s.reg x = kk then s.pc + 4 else s.pc + 2
  | .sneImm x kk => if s.reg x ≠ kk then s.pc + 4 else s.pc + 2
  | .seReg x y => if s.reg x = s.reg y then s.pc + 4 else s.pc + 2
  | .sneReg x y => if s.reg x ≠ s.reg y then s.pc + 4 else s.pc + 2
  | .skp x => if s.keys[(s.reg x).toNat]? = some true then s.pc + 4 else s.pc + 2
  | .sknp x => if s.keys[(s.reg x).toNat]? = some true then s.pc + 2 else s.pc + 4
  | .ldVxK _ => if ∃ k : Fin 16, s.keys[k] = true then s.pc + 2 else s.pc
  | _ => s.pc + 2

/-- Sprite pixel (c, r) of a sprite with origin (ox, oy) falls on the screen pixel (px, py) under an edge policy
(44_display.md R212, R213): under `CLIP` at its own coordinates, under `WRAP` at them modulo the screen size. -/
def Lands (edge : SpriteEdge) (ox oy c r : Nat) (px : Fin 64) (py : Fin 32) : Prop :=
  match edge with
  | .clip => px.val = ox + c ∧ py.val = oy + r
  | .wrap => px.val = (ox + c) % 64 ∧ py.val = (oy + r) % 32

/-- The n-row sprite at I, drawn from `s` with its origin at (V[x], V[y]), has a 1 bit that falls on (px, py). -/
def SpriteHits (s : State) (x y : RegIdx) (n : Nibble) (px : Fin 64) (py : Fin 32) : Prop :=
  ∃ r c : Nat, r < n.toNat ∧ c < 8 ∧ Lands s.params.spriteEdge (s.reg x).toNat (s.reg y).toNat c r px py ∧
    (s.byteAt (s.i.toNat + r)).getLsbD (7 - c) = true

/-- "SP never leaves 0..16" (10_state.md R26), and every entry is an address a fetch can advance to (R23, R27). -/
def StackOk (s : State) : Prop := s.sp.toNat ≤ 16 ∧ ∀ k : Fin 16, s.stack[k].toNat ≤ 0x1000

/-- "The largest value PC can take is 0x10FE" (10_state.md R23). -/
def PcOk (s : State) : Prop := s.pc.toNat ≤ 0x10FE

/-- The halt record is all 0 until a fault, and after it names a cause and the address PC still holds (10_state.md R32,
60_exceptions.md R263). -/
def HaltOk (s : State) : Prop :=
  if s.halted then s.haltCause ≠ .none ∧ s.haltPC = s.pc
  else s.haltCause = .none ∧ s.haltPC = 0 ∧ s.haltOpcode = 0 ∧ s.haltAddr = 0

/-- Nothing runs, waits, pauses or halts before a load; what is loaded is `LastRom`, of `ProgramSize` bytes, and no kept
ROM is longer than 3584 bytes (10_state.md R30, R35; 70_reset_and_hazards.md R330, R335). -/
def RunOk (s : State) : Prop :=
  ((s.alive ∨ s.paused ∨ s.waitKey ∨ s.halted) → s.loaded) ∧
  (s.loaded → ∃ rom, s.lastRom = some rom ∧ rom.length = s.programSize) ∧
  (s.loaded = false → s.programSize = 0) ∧
  (∀ rom, s.lastRom = some rom → romFits rom)

/-- The invariant of the machine. -/
structure MachineInv (s : State) : Prop where
  mem : s.mem.wf s.params.font
  stack : StackOk s
  pc : PcOk s
  halt : HaltOk s
  run : RunOk s

/-! ### The frame schedule (70_reset_and_hazards.md R345) -/

/-- `CYCLES_PER_TICK_MAX` (00_scope.md R6). -/
def cyclesPerTickMax : Nat := 8

/-- Does a list of coming events keep to the frame schedule from `s`, with `left` free-running cycles still allowed before
the next Tick? A frame is one Tick and then at most 8 free-running Cycles; after a `start()` that takes effect a Tick comes
first; every other host event may fall anywhere, and a Cycle or Tick that is not enabled does not happen. The model itself
allows any interleaving (log 10); a claim about the schedule takes this as its hypothesis. -/
def onSchedule (left : Nat) (s : State) : List Event → Prop
  | [] => True
  | e :: rest =>
    (e = .cycle → s.cycleEnabled = true → left > 0) ∧
    match perform e s with
    | .next t =>
      onSchedule
        (match e with
          | .tick => if s.tickEnabled then cyclesPerTickMax else left
          | .cycle => if s.cycleEnabled then left - 1 else left
          | .start => if s.startEnabled then 0 else left
          | _ => left)
        t rest
    | .fault _ => False
    | .refused _ => False

end Sys2Proof.Machine
end

