-- ==== Sys2Proof/Certificates/Slice0/Obligations.lean ====
section
/-! DEFINITION. The statements for the provers, in the order of OBLIGATIONS.json. Each docstring names the rules of spec/
it formalises. -/

open Sys2Proof Sys2Proof.Machine

/-! ### Encoding (30_encoding.md) -/

/-- 30_encoding.md R92: the fields of a word, as numbers. The spec marks their bit positions as its own inference from the
opcode patterns. -/
def Obligations.FieldsAreTheirBitRanges : Prop :=
  ∀ op : Word,
    (fieldNNN op).toNat = op.toNat % 4096 ∧ (fieldX op).toNat = op.toNat / 256 % 16 ∧
    (fieldY op).toNat = op.toNat / 16 % 16 ∧ (fieldKK op).toNat = op.toNat % 256 ∧
    (fieldN op).toNat = op.toNat % 16 ∧ (fieldTop op).toNat = op.toNat / 4096

/-- 30_encoding.md R100, R101; the words are those of 95_test_vectors.md E1, E4, E6 to E11. -/
def Obligations.WrittenOutWordsDecode : Prop :=
  decode 0x00E0 = .instr .cls ∧ decode 0x00EE = .instr .ret ∧
  decode 0x5120 = .instr (.seReg 1 2) ∧ decode 0x9120 = .instr (.sneReg 1 2) ∧
  decode 0x8124 = .instr (.addReg 1 2) ∧ decode 0x812E = .instr (.shl 1 2) ∧
  decode 0xBABC = .instr (.jpV0 0xABC) ∧ decode 0xD12F = .instr (.drw 1 2 0xF) ∧
  decode 0xE19E = .instr (.skp 1) ∧ decode 0xF10A = .instr (.ldVxK 1) ∧
  decode 0xF133 = .instr (.ldB 1) ∧ decode 0xF165 = .instr (.loadRegs 1) ∧
  decode 0x0120 = .illegal .top0 ∧ decode 0x5121 = .illegal .top5 ∧ decode 0x8128 = .illegal .top8 ∧
  decode 0x9121 = .illegal .top9 ∧ decode 0xE19F = .illegal .topE ∧ decode 0xF175 = .illegal .topF

/-- 30_encoding.md R100, R101: every operand at every value survives encoding and decoding. -/
def Obligations.DecodeOfEncodeIsTheInstruction : Prop :=
  ∀ i : Instr, decode (encode i) = .instr i

/-- 30_encoding.md R100, R101: a legal word has one meaning, so `encode i` is the fetched word that a fault of `i` records
as `HaltOpcode` (60_exceptions.md R262; the model's log 12 rests on it). -/
def Obligations.EncodeOfTheDecodedIsTheWord : Prop :=
  ∀ (op : Word) (i : Instr), decode op = .instr i → encode i = op

/-- 30_encoding.md R100: "A word is an instruction exactly when `op AND mask = match` for one row; the rows are
disjoint", and the instruction decoded is that row's. -/
def Obligations.DecodeAcceptsExactlyTheOpcodeMap : Prop :=
  (∀ op : Word, (∃ i, decode op = .instr i) ↔ ∃ r ∈ opcodeMap, r.matches op) ∧
  (∀ (op : Word) (i : Instr), decode op = .instr i → i.row ∈ opcodeMap ∧ i.row.matches op) ∧
  (∀ (op : Word), ∀ r ∈ opcodeMap, ∀ r' ∈ opcodeMap, r.matches op → r'.matches op → r = r')

/-- 30_encoding.md R103: the illegal words by top nibble. -/
def Obligations.IllegalWordsByTopNibble : Prop :=
  ∀ op : Word, (∃ why, decode op = .illegal why) ↔
    (op.toNat / 4096 = 0x0 ∧ op.toNat ≠ 0x00E0 ∧ op.toNat ≠ 0x00EE) ∨
    ((op.toNat / 4096 = 0x5 ∨ op.toNat / 4096 = 0x9) ∧ op.toNat % 16 ≠ 0) ∨
    (op.toNat / 4096 = 0x8 ∧ op.toNat % 16 ≥ 8 ∧ op.toNat % 16 ≠ 0xE) ∨
    (op.toNat / 4096 = 0xE ∧ op.toNat % 256 ≠ 0x9E ∧ op.toNat % 256 ≠ 0xA1) ∨
    (op.toNat / 4096 = 0xF ∧ op.toNat % 256 ∉ [0x07, 0x0A, 0x15, 0x18, 0x1E, 0x29, 0x33, 0x55, 0x65])

/-! ### The cycle (40_cycle.md) -/

/-- 40_cycle.md R120, R124: with no event listed and a Cycle enabled, a step runs exactly the instruction that the two
bytes at PC decode to. `exec` gets the state before the cycle and itself advances PC and clears `DrewThisCycle` (log 12). -/
def Obligations.StepRunsTheDecodedInstruction : Prop :=
  ∀ (s : State) (i : Instr), s.events = [] → s.alive = true → s.halted = false → s.paused = false →
    s.pc.toNat ≤ 0x0FFE → decode (wordOf (s.byteAt s.pc.toNat) (s.byteAt (s.pc.toNat + 1))) = .instr i →
    step s = exec i s

/-- 60_exceptions.md R292: `step()` performs one Cycle when alive and not halted, whatever `Paused` is; a listed
free-running Cycle is performed only when also not paused (40_cycle.md R126). That an event which is not enabled is taken
from the list and does nothing else is the model's choice (log 16). -/
def Obligations.StepPortRunsACycleEvenWhenPaused : Prop :=
  ∀ (s : State) (es : List Event) (e : Event) (enabled : Bool), s.events = e :: es →
    (e = .step ∧ enabled = (s.alive && !s.halted)) ∨ (e = .cycle ∧ enabled = (s.alive && !s.halted && !s.paused)) →
    (∀ i : Instr, enabled = true → s.pc.toNat ≤ 0x0FFE →
      decode (wordOf (s.byteAt s.pc.toNat) (s.byteAt (s.pc.toNat + 1))) = .instr i →
      step s = exec i { s with events := es }) ∧
    (enabled = false → step s = .next { s with events := es })

/-- 40_cycle.md R126: with no event listed and no Cycle enabled, nothing happens (the unchanged state is the model's, log 6). -/
def Obligations.NothingRunsUnlessACycleIsEnabled : Prop :=
  ∀ s : State, s.events = [] → (s.alive = false ∨ s.halted = true ∨ s.paused = true) → step s = .next s

/-- 40_cycle.md R121: the fetch range check, of a free-running Cycle, listed or not, and of a `step()`, of a paused core too
(60_exceptions.md R292). -/
def Obligations.FetchBeyondMemoryHalts : Prop :=
  ∀ s s' : State, BeginsCycle s s' → s'.pc.toNat > 0x0FFE → HaltsWith (step s) s' .pcOutOfRange 0x0000 0x0000

/-- 30_encoding.md R102: an illegal word halts the core and changes nothing else, in a free-running Cycle, listed or not, and
in a `step()`, of a paused core too (60_exceptions.md R292). -/
def Obligations.IllegalWordHalts : Prop :=
  ∀ (s s' : State) (op : Word) (why : Illegal), BeginsCycle s s' →
    s'.pc.toNat ≤ 0x0FFE → op = wordOf (s'.byteAt s'.pc.toNat) (s'.byteAt (s'.pc.toNat + 1)) →
    decode op = .illegal why → HaltsWith (step s) s' .decodeError op 0x0000

/-! ### Control transfer (41_control_flow.md) -/

/-- 41_control_flow.md R140: 1NNN. -/
def Obligations.JumpSetsPc : Prop :=
  ∀ (s : State) (nnn : Addr12), encode (.jp nnn) &&& 0xF000 = 0x1000 ∧
    ∃ t, exec (.jp nnn) s = .next t ∧ t.pc.toNat = nnn.toNat ∧ t.drewThisCycle = false ∧
      UnchangedExcept [.pc, .drewThisCycle] s t

/-- 41_control_flow.md R143: BNNN adds V[0], with no reduction modulo 4096. -/
def Obligations.JumpWithOffsetAddsV0 : Prop :=
  ∀ (s : State) (nnn : Addr12), encode (.jpV0 nnn) &&& 0xF000 = 0xB000 ∧
    ∃ t, exec (.jpV0 nnn) s = .next t ∧ t.pc.toNat = nnn.toNat + (s.reg 0).toNat ∧ t.drewThisCycle = false ∧
      UnchangedExcept [.pc, .drewThisCycle] s t

/-- 41_control_flow.md R141: 2NNN pushes the advanced PC, or halts with all 16 entries in use. -/
def Obligations.CallPushesTheReturnAddress : Prop :=
  ∀ (s : State) (nnn : Addr12), encode (.call nnn) &&& 0xF000 = 0x2000 ∧
    (s.sp.toNat < 16 →
      ∃ t, exec (.call nnn) s = .next t ∧ t.pc.toNat = nnn.toNat ∧ t.sp.toNat = s.sp.toNat + 1 ∧
        t.stack[s.sp.toNat]? = some (s.pc + 2) ∧
        (∀ k : Fin 16, k.val ≠ s.sp.toNat → t.stack[k] = s.stack[k]) ∧ t.drewThisCycle = false ∧
        UnchangedExcept [.pc, .sp, .stack, .drewThisCycle] s t) ∧
    (s.sp.toNat ≥ 16 → HaltsWith (exec (.call nnn) s) s .stackOverflow (encode (.call nnn)) 0x0000)

/-- 41_control_flow.md R142: 00EE pops into PC, or halts on an empty stack. SP is in its legal range (10_state.md R26). -/
def Obligations.ReturnPopsThePc : Prop :=
  encode .ret = 0x00EE ∧ ∀ s : State, s.sp.toNat ≤ 16 →
    (s.sp.toNat > 0 →
      ∃ t, exec .ret s = .next t ∧ t.sp.toNat = s.sp.toNat - 1 ∧ s.stack[s.sp.toNat - 1]? = some t.pc ∧
        t.drewThisCycle = false ∧ UnchangedExcept [.pc, .sp, .drewThisCycle] s t) ∧
    (s.sp.toNat = 0 → HaltsWith (exec .ret s) s .stackUnderflow 0x00EE 0x0000)

/-- The model's own stop (log 9): 00EE with an SP above 16, which 10_state.md R26 says never occurs. -/
def Obligations.ReturnStopsOnAnIllegalSp : Prop :=
  ∀ s : State, s.sp.toNat > 16 → exec .ret s = .fault .stackPointerIllegal

/-- 41_control_flow.md R144 to R147: 3XKK, 4XKK, 5XY0, 9XY0. -/
def Obligations.SkipsOnRegisterValues : Prop :=
  ∀ (s : State) (x y : RegIdx) (kk : Byte),
    (encode (.seImm x kk) &&& 0xF000 = 0x3000 ∧
      ∃ t, exec (.seImm x kk) s = .next t ∧ t.pc = (if s.reg x = kk then s.pc + 4 else s.pc + 2) ∧
        t.drewThisCycle = false ∧ UnchangedExcept [.pc, .drewThisCycle] s t) ∧
    (encode (.sneImm x kk) &&& 0xF000 = 0x4000 ∧
      ∃ t, exec (.sneImm x kk) s = .next t ∧ t.pc = (if s.reg x ≠ kk then s.pc + 4 else s.pc + 2) ∧
        t.drewThisCycle = false ∧ UnchangedExcept [.pc, .drewThisCycle] s t) ∧
    (encode (.seReg x y) &&& 0xF00F = 0x5000 ∧
      ∃ t, exec (.seReg x y) s = .next t ∧ t.pc = (if s.reg x = s.reg y then s.pc + 4 else s.pc + 2) ∧
        t.drewThisCycle = false ∧ UnchangedExcept [.pc, .drewThisCycle] s t) ∧
    (encode (.sneReg x y) &&& 0xF00F = 0x9000 ∧
      ∃ t, exec (.sneReg x y) s = .next t ∧ t.pc = (if s.reg x ≠ s.reg y then s.pc + 4 else s.pc + 2) ∧
        t.drewThisCycle = false ∧ UnchangedExcept [.pc, .drewThisCycle] s t)

/-- 45_timers_keys.md R243, R244: EX9E, EXA1; a value above 0x0F is never a key that is down. -/
def Obligations.SkipsOnKeys : Prop :=
  ∀ (s : State) (x : RegIdx),
    (encode (.skp x) &&& 0xF0FF = 0xE09E ∧
      ∃ t, exec (.skp x) s = .next t ∧
        t.pc = (if s.keys[(s.reg x).toNat]? = some true then s.pc + 4 else s.pc + 2) ∧
        t.drewThisCycle = false ∧ UnchangedExcept [.pc, .drewThisCycle] s t) ∧
    (encode (.sknp x) &&& 0xF0FF = 0xE0A1 ∧
      ∃ t, exec (.sknp x) s = .next t ∧
        t.pc = (if s.keys[(s.reg x).toNat]? = some true then s.pc + 2 else s.pc + 4) ∧
        t.drewThisCycle = false ∧ UnchangedExcept [.pc, .drewThisCycle] s t)

/-- The summary of PC effects (41_control_flow.md section 4, which the spec marks as derived from the instructions' rules):
PC after every completed cycle, and after every cycle that raises. SP is in its legal range (10_state.md R26). -/
def Obligations.PcAfterEveryCycle : Prop :=
  ∀ (i : Instr) (s t : State), s.halted = false → s.sp.toNat ≤ 16 → exec i s = .next t →
    t.pc = if t.halted then s.pc else pcAfter s i

/-! ### Load, arithmetic, logic, shift, random (42_alu.md) -/

/-- 42_alu.md R161, R163: 6XKK and 8XY0. -/
def Obligations.LoadWritesOnlyVx : Prop :=
  ∀ (s : State) (x y : RegIdx) (kk : Byte),
    (encode (.ldImm x kk) &&& 0xF000 = 0x6000 ∧
      ∃ t, exec (.ldImm x kk) s = .next t ∧ t.reg x = kk ∧ (∀ r, r ≠ x → t.reg r = s.reg r) ∧ t.pc = s.pc + 2 ∧
        t.drewThisCycle = false ∧ UnchangedExcept [.v, .pc, .drewThisCycle] s t) ∧
    (encode (.ldReg x y) &&& 0xF00F = 0x8000 ∧
      ∃ t, exec (.ldReg x y) s = .next t ∧ t.reg x = s.reg y ∧ (∀ r, r ≠ x → t.reg r = s.reg r) ∧ t.pc = s.pc + 2 ∧
        t.drewThisCycle = false ∧ UnchangedExcept [.v, .pc, .drewThisCycle] s t)

/-- 42_alu.md R162: 7XKK wraps and records no carry. -/
def Obligations.AddImmediateWrapsAndLeavesVf : Prop :=
  ∀ (s : State) (x : RegIdx) (kk : Byte), encode (.addImm x kk) &&& 0xF000 = 0x7000 ∧
    ∃ t, exec (.addImm x kk) s = .next t ∧ (t.reg x).toNat = ((s.reg x).toNat + kk.toNat) % 256 ∧
      (∀ r, r ≠ x → t.reg r = s.reg r) ∧ t.pc = s.pc + 2 ∧ t.drewThisCycle = false ∧
      UnchangedExcept [.v, .pc, .drewThisCycle] s t

/-- 42_alu.md R164 to R166: 8XY1, 8XY2, 8XY3 write the result, then 0 to VF. -/
def Obligations.LogicLeavesVfZero : Prop :=
  ∀ (s : State) (x y : RegIdx),
    (encode (.orReg x y) &&& 0xF00F = 0x8001 ∧
      ∃ t, exec (.orReg x y) s = .next t ∧ (x ≠ 0xF → t.reg x = s.reg x ||| s.reg y) ∧ t.reg 0xF = 0 ∧
        (∀ r, r ≠ x → r ≠ 0xF → t.reg r = s.reg r) ∧ t.pc = s.pc + 2 ∧ t.drewThisCycle = false ∧
        UnchangedExcept [.v, .pc, .drewThisCycle] s t) ∧
    (encode (.andReg x y) &&& 0xF00F = 0x8002 ∧
      ∃ t, exec (.andReg x y) s = .next t ∧ (x ≠ 0xF → t.reg x = s.reg x &&& s.reg y) ∧ t.reg 0xF = 0 ∧
        (∀ r, r ≠ x → r ≠ 0xF → t.reg r = s.reg r) ∧ t.pc = s.pc + 2 ∧ t.drewThisCycle = false ∧
        UnchangedExcept [.v, .pc, .drewThisCycle] s t) ∧
    (encode (.xorReg x y) &&& 0xF00F = 0x8003 ∧
      ∃ t, exec (.xorReg x y) s = .next t ∧ (x ≠ 0xF → t.reg x = s.reg x ^^^ s.reg y) ∧ t.reg 0xF = 0 ∧
        (∀ r, r ≠ x → r ≠ 0xF → t.reg r = s.reg r) ∧ t.pc = s.pc + 2 ∧ t.drewThisCycle = false ∧
        UnchangedExcept [.v, .pc, .drewThisCycle] s t)

/-- 42_alu.md R167: 8XY4; with x = 0xF the sum stays and the carry is lost. -/
def Obligations.AddSetsCarry : Prop :=
  ∀ (s : State) (x y : RegIdx), encode (.addReg x y) &&& 0xF00F = 0x8004 ∧
    ∃ t, exec (.addReg x y) s = .next t ∧ (t.reg x).toNat = ((s.reg x).toNat + (s.reg y).toNat) % 256 ∧
      (x ≠ 0xF → (t.reg 0xF).toNat = if (s.reg x).toNat + (s.reg y).toNat > 255 then 1 else 0) ∧
      (∀ r, r ≠ x → r ≠ 0xF → t.reg r = s.reg r) ∧ t.pc = s.pc + 2 ∧ t.drewThisCycle = false ∧
      UnchangedExcept [.v, .pc, .drewThisCycle] s t

/-- 42_alu.md R168, R172: 8XY5 is V[x] - V[y] and 8XY7 is V[y] - V[x]; VF is 0 on a borrow, else 1. -/
def Obligations.SubtractSetsNoBorrow : Prop :=
  ∀ (s : State) (x y : RegIdx),
    (encode (.subReg x y) &&& 0xF00F = 0x8005 ∧
      ∃ t, exec (.subReg x y) s = .next t ∧ (t.reg x).toNat = ((s.reg x).toNat + 256 - (s.reg y).toNat) % 256 ∧
        (x ≠ 0xF → (t.reg 0xF).toNat = if (s.reg x).toNat ≥ (s.reg y).toNat then 1 else 0) ∧
        (∀ r, r ≠ x → r ≠ 0xF → t.reg r = s.reg r) ∧ t.pc = s.pc + 2 ∧ t.drewThisCycle = false ∧
        UnchangedExcept [.v, .pc, .drewThisCycle] s t) ∧
    (encode (.subn x y) &&& 0xF00F = 0x8007 ∧
      ∃ t, exec (.subn x y) s = .next t ∧ (t.reg x).toNat = ((s.reg y).toNat + 256 - (s.reg x).toNat) % 256 ∧
        (x ≠ 0xF → (t.reg 0xF).toNat = if (s.reg y).toNat ≥ (s.reg x).toNat then 1 else 0) ∧
        (∀ r, r ≠ x → r ≠ 0xF → t.reg r = s.reg r) ∧ t.pc = s.pc + 2 ∧ t.drewThisCycle = false ∧
        UnchangedExcept [.v, .pc, .drewThisCycle] s t)

/-- 42_alu.md R170, R171, R173: 8XY6 and 8XYE on V[x] or V[y] as `QUIRK_SHIFT_SOURCE` says, for both of its values. -/
def Obligations.ShiftsFollowTheShiftSource : Prop :=
  ∀ (s : State) (x y : RegIdx) (a : Byte),
    (s.params.shiftSource = .vxInPlace → a = s.reg x) → (s.params.shiftSource = .vyCopy → a = s.reg y) →
    (encode (.shr x y) &&& 0xF00F = 0x8006 ∧
      ∃ t, exec (.shr x y) s = .next t ∧ (t.reg x).toNat = a.toNat / 2 ∧
        (x ≠ 0xF → (t.reg 0xF).toNat = a.toNat % 2) ∧
        (∀ r, r ≠ x → r ≠ 0xF → t.reg r = s.reg r) ∧ t.pc = s.pc + 2 ∧ t.drewThisCycle = false ∧
        UnchangedExcept [.v, .pc, .drewThisCycle] s t) ∧
    (encode (.shl x y) &&& 0xF00F = 0x800E ∧
      ∃ t, exec (.shl x y) s = .next t ∧ (t.reg x).toNat = a.toNat * 2 % 256 ∧
        (x ≠ 0xF → (t.reg 0xF).toNat = a.toNat / 128) ∧
        (∀ r, r ≠ x → r ≠ 0xF → t.reg r = s.reg r) ∧ t.pc = s.pc + 2 ∧ t.drewThisCycle = false ∧
        UnchangedExcept [.v, .pc, .drewThisCycle] s t)

/-- 42_alu.md R175: CXKK takes a drawn byte AND kk. The draw is the free value `Config.drawByte s.draws` (log 2): the
statement holds whatever it is, and the next draw is another one. -/
def Obligations.RandomIsADrawnByteAndKk : Prop :=
  ∀ (s : State) (x : RegIdx) (kk : Byte), encode (.rnd x kk) &&& 0xF000 = 0xC000 ∧
    ∃ t, exec (.rnd x kk) s = .next t ∧ t.reg x = Config.drawByte s.draws &&& kk ∧ t.reg x &&& ~~~kk = 0 ∧
      t.draws = s.draws + 1 ∧ (∀ r, r ≠ x → t.reg r = s.reg r) ∧ t.pc = s.pc + 2 ∧ t.drewThisCycle = false ∧
      UnchangedExcept [.v, .pc, .drewThisCycle, .draws] s t

/-- 10_state.md R40: "Every other instruction leaves VF alone unless x = 0xF names it as the destination", and the same
of every other register: no cycle changes a register that its instruction does not name. -/
def Obligations.RegistersChangeOnlyAsNamed : Prop :=
  ∀ (i : Instr) (s t : State), exec i s = .next t →
    (writesFlag i = false → namesDestination 0xF i = false → t.reg 0xF = s.reg 0xF) ∧
    (∀ r, r ≠ 0xF → namesDestination r i = false → t.reg r = s.reg r)

/-! ### Index register and memory (43_index_memory.md) -/

/-- 43_index_memory.md R190, R191: ANNN and FX1E. -/
def Obligations.IndexIsLoadedAndAddedTo : Prop :=
  ∀ (s : State) (nnn : Addr12) (x : RegIdx),
    (encode (.ldI nnn) &&& 0xF000 = 0xA000 ∧
      ∃ t, exec (.ldI nnn) s = .next t ∧ t.i.toNat = nnn.toNat ∧ t.pc = s.pc + 2 ∧ t.drewThisCycle = false ∧
        UnchangedExcept [.i, .pc, .drewThisCycle] s t) ∧
    (encode (.addI x) &&& 0xF0FF = 0xF01E ∧
      ∃ t, exec (.addI x) s = .next t ∧ t.i.toNat = (s.i.toNat + (s.reg x).toNat) % 65536 ∧ t.pc = s.pc + 2 ∧
        t.drewThisCycle = false ∧ UnchangedExcept [.i, .pc, .drewThisCycle] s t)

/-- 43_index_memory.md R192: FX29 points I at the glyph of V[x]; above 0x0F I is the drawn word `Config.drawWord s.draws`,
a free value (log 2): the statement holds whatever it is. -/
def Obligations.FontPointerOrDraw : Prop :=
  ∀ (s : State) (x : RegIdx), encode (.ldF x) &&& 0xF0FF = 0xF029 ∧
    ∃ t, exec (.ldF x) s = .next t ∧
      ((s.reg x).toNat ≤ 0x0F → t.i.toNat = 5 * (s.reg x).toNat ∧ t.draws = s.draws) ∧
      ((s.reg x).toNat > 0x0F → t.i = Config.drawWord s.draws ∧ t.draws = s.draws + 1) ∧
      t.pc = s.pc + 2 ∧ t.drewThisCycle = false ∧ UnchangedExcept [.i, .pc, .drewThisCycle, .draws] s t

/-- 43_index_memory.md R193: FX33 stores the three decimal digits, or halts and stores nothing. Memory is in its canonical
form, which every step keeps. -/
def Obligations.DecimalDigitsAreStored : Prop :=
  ∀ (s : State) (x : RegIdx), s.mem.wf s.params.font → encode (.ldB x) &&& 0xF0FF = 0xF033 ∧
    (s.i.toNat + 2 ≤ 0x0FFF →
      ∃ t, exec (.ldB x) s = .next t ∧
        (t.byteAt s.i.toNat).toNat = (s.reg x).toNat / 100 ∧
        (t.byteAt (s.i.toNat + 1)).toNat = (s.reg x).toNat / 10 % 10 ∧
        (t.byteAt (s.i.toNat + 2)).toNat = (s.reg x).toNat % 10 ∧
        (∀ a, a < s.i.toNat ∨ s.i.toNat + 3 ≤ a → t.byteAt a = s.byteAt a) ∧
        t.pc = s.pc + 2 ∧ t.drewThisCycle = false ∧ UnchangedExcept [.mem, .pc, .drewThisCycle] s t) ∧
    (s.i.toNat + 2 > 0x0FFF →
      HaltsWith (exec (.ldB x) s) s .memOutOfRange (encode (.ldB x)) (BitVec.ofNat 16 (max s.i.toNat 0x1000)))

/-- 43_index_memory.md R194: FX55 stores V[0] to V[x] from I up and leaves I past them, or halts and stores nothing.
Memory is in its canonical form, which every step keeps. -/
def Obligations.RegistersAreStored : Prop :=
  ∀ (s : State) (x : RegIdx), s.mem.wf s.params.font → encode (.storeRegs x) &&& 0xF0FF = 0xF055 ∧
    (s.i.toNat + x.toNat ≤ 0x0FFF →
      ∃ t, exec (.storeRegs x) s = .next t ∧
        (∀ r : RegIdx, r.toNat ≤ x.toNat → t.byteAt (s.i.toNat + r.toNat) = s.reg r) ∧
        (∀ a, a < s.i.toNat ∨ s.i.toNat + x.toNat < a → t.byteAt a = s.byteAt a) ∧
        t.i.toNat = s.i.toNat + x.toNat + 1 ∧
        t.pc = s.pc + 2 ∧ t.drewThisCycle = false ∧ UnchangedExcept [.mem, .i, .pc, .drewThisCycle] s t) ∧
    (s.i.toNat + x.toNat > 0x0FFF →
      HaltsWith (exec (.storeRegs x) s) s .memOutOfRange (encode (.storeRegs x))
        (BitVec.ofNat 16 (max s.i.toNat 0x1000)))

/-- 43_index_memory.md R195: FX65 loads V[0] to V[x] from I up and leaves I past them, or halts and loads nothing. -/
def Obligations.RegistersAreLoaded : Prop :=
  ∀ (s : State) (x : RegIdx), encode (.loadRegs x) &&& 0xF0FF = 0xF065 ∧
    (s.i.toNat + x.toNat ≤ 0x0FFF →
      ∃ t, exec (.loadRegs x) s = .next t ∧
        (∀ r : RegIdx, r.toNat ≤ x.toNat → t.reg r = s.byteAt (s.i.toNat + r.toNat)) ∧
        (∀ r : RegIdx, x.toNat < r.toNat → t.reg r = s.reg r) ∧
        t.i.toNat = s.i.toNat + x.toNat + 1 ∧
        t.pc = s.pc + 2 ∧ t.drewThisCycle = false ∧ UnchangedExcept [.v, .i, .pc, .drewThisCycle] s t) ∧
    (s.i.toNat + x.toNat > 0x0FFF →
      HaltsWith (exec (.loadRegs x) s) s .memOutOfRange (encode (.loadRegs x))
        (BitVec.ofNat 16 (max s.i.toNat 0x1000)))

/-- 20_memory.md R73: after an FX33 or FX55 that completes, a fetch from ANY address reads the bytes it stored at the stored
addresses, the first and the last included, and the bytes from before elsewhere. -/
def Obligations.StoresAreSeenByTheNextFetch : Prop :=
  ∀ (s t : State) (x : RegIdx) (a : Nat), s.mem.wf s.params.font → a ≤ 0x0FFE →
    (s.i.toNat + 2 ≤ 0x0FFF → exec (.ldB x) s = .next t →
      let stored : Nat → Byte := fun b =>
        if b = s.i.toNat then BitVec.ofNat 8 ((s.reg x).toNat / 100)
        else if b = s.i.toNat + 1 then BitVec.ofNat 8 ((s.reg x).toNat / 10 % 10)
        else if b = s.i.toNat + 2 then BitVec.ofNat 8 ((s.reg x).toNat % 10)
        else s.byteAt b
      ({ t with pc := BitVec.ofNat 16 a } : State).fetch = some (wordOf (stored a) (stored (a + 1)))) ∧
    (s.i.toNat + x.toNat ≤ 0x0FFF → exec (.storeRegs x) s = .next t →
      let stored : Nat → Byte := fun b =>
        if s.i.toNat ≤ b ∧ b ≤ s.i.toNat + x.toNat then s.reg (BitVec.ofNat 4 (b - s.i.toNat)) else s.byteAt b
      ({ t with pc := BitVec.ofNat 16 a } : State).fetch = some (wordOf (stored a) (stored (a + 1))))

/-- Whole-machine frame: only FX33 and FX55 write memory (20_memory.md R65), only ANNN, FX1E, FX29, FX55 and FX65 write I
(10_state.md R25), only 00E0 and DXYN the framebuffer (R36), only 2NNN and 00EE SP and the stack (R26, R27), only FX15 DT
and only FX18 ST (R28, R29), only FX0A `WaitKey` (R30), and no instruction the latch (R37), `Loaded`, `Alive`, `Paused`,
`ProgramSize` or `LastRom`; `DrewThisCycle` is 1 after a completed cycle exactly when it was a DXYN (40_cycle.md R123). Of
the model's own fields (log 1, 2, 5, 7) only FX18 puts out a Beep and only CXKK and FX29 draw. -/
def Obligations.OnlyNamedInstructionsWriteEachPart : Prop :=
  ∀ (i : Instr) (s t : State), exec i s = .next t →
    ((∀ x, i ≠ .ldB x) → (∀ x, i ≠ .storeRegs x) → t.mem = s.mem) ∧
    ((∀ nnn, i ≠ .ldI nnn) → (∀ x, i ≠ .addI x) → (∀ x, i ≠ .ldF x) → (∀ x, i ≠ .storeRegs x) →
      (∀ x, i ≠ .loadRegs x) → t.i = s.i) ∧
    (i ≠ .cls → (∀ x y n, i ≠ .drw x y n) → t.fb = s.fb ∧ t.frameDirty = s.frameDirty) ∧
    (t.halted = false → (t.drewThisCycle = true ↔ ∃ x y n, i = .drw x y n)) ∧
    (i ≠ .ret → (∀ nnn, i ≠ .call nnn) → t.sp = s.sp) ∧ ((∀ nnn, i ≠ .call nnn) → t.stack = s.stack) ∧
    ((∀ x, i ≠ .ldDT x) → t.dt = s.dt) ∧ ((∀ x, i ≠ .ldST x) → t.st = s.st ∧ t.outputs = s.outputs) ∧
    ((∀ x, i ≠ .ldVxK x) → t.waitKey = s.waitKey) ∧
    ((∀ x kk, i ≠ .rnd x kk) → (∀ x, i ≠ .ldF x) → t.draws = s.draws) ∧
    t.keys = s.keys ∧ t.loaded = s.loaded ∧ t.alive = s.alive ∧ t.paused = s.paused ∧
    t.programSize = s.programSize ∧ t.lastRom = s.lastRom ∧ t.params = s.params ∧ t.events = s.events

/-! ### Display (44_display.md) -/

/-- 44_display.md R210: 00E0. -/
def Obligations.ClearScreenClearsEveryPixel : Prop :=
  encode .cls = 0x00E0 ∧ ∀ s : State, ∃ t, exec .cls s = .next t ∧ (∀ px py, pixel t.fb px py = false) ∧
    t.frameDirty = true ∧ t.pc = s.pc + 2 ∧ t.drewThisCycle = false ∧
    UnchangedExcept [.fb, .frameDirty, .pc, .drewThisCycle] s t

/-- 44_display.md R211 to R215: DXYN toggles exactly the pixels that the sprite's 1 bits fall on, under both edge
policies, and reports in VF whether one of them was lit; or it halts, nothing drawn, when a sprite byte lies above
0x0FFF. -/
def Obligations.DrawXorsTheSprite : Prop :=
  ∀ (s : State) (x y : RegIdx) (n : Nibble), encode (.drw x y n) &&& 0xF000 = 0xD000 ∧
    (n.toNat = 0 ∨ s.i.toNat + n.toNat - 1 ≤ 0x0FFF →
      ∃ t, exec (.drw x y n) s = .next t ∧
        (∀ px py, pixel t.fb px py = true ↔ ¬(pixel s.fb px py = true ↔ SpriteHits s x y n px py)) ∧
        ((∃ px py, pixel s.fb px py = true ∧ SpriteHits s x y n px py) → t.reg 0xF = 1) ∧
        (¬(∃ px py, pixel s.fb px py = true ∧ SpriteHits s x y n px py) → t.reg 0xF = 0) ∧
        (∀ r, r ≠ 0xF → t.reg r = s.reg r) ∧
        t.frameDirty = (s.frameDirty || decide (n.toNat > 0)) ∧ t.drewThisCycle = true ∧ t.pc = s.pc + 2 ∧
        UnchangedExcept [.v, .fb, .frameDirty, .pc, .drewThisCycle] s t) ∧
    (n.toNat > 0 ∧ s.i.toNat + n.toNat - 1 > 0x0FFF →
      HaltsWith (exec (.drw x y n) s) s .memOutOfRange (encode (.drw x y n))
        (BitVec.ofNat 16 (max s.i.toNat 0x1000)))

/-- 44_display.md R211, the XOR self-inverse property (95_test_vectors.md S6): drawing the same sprite twice at the same
place restores the framebuffer, and on an initially clear screen the second draw collides exactly when the first lit a
pixel. -/
def Obligations.DrawingTwiceRestoresTheScreen : Prop :=
  ∀ (s : State) (x y : RegIdx) (n : Nibble), x ≠ 0xF → y ≠ 0xF →
    (n.toNat = 0 ∨ s.i.toNat + n.toNat - 1 ≤ 0x0FFF) →
    ∃ t u, exec (.drw x y n) s = .next t ∧ exec (.drw x y n) t = .next u ∧ u.fb = s.fb ∧
      ((∀ px py, pixel s.fb px py = false) → t.reg 0xF = 0 ∧
        (u.reg 0xF = 1 ↔ ∃ px py, pixel t.fb px py = true))

/-- 60_exceptions.md R287: `frameAck()` clears `FrameDirty` and changes nothing else, in every state; and the core never
clears it: no step that performs another event takes it from 1 to 0. -/
def Obligations.OnlyTheHostClearsFrameDirty : Prop :=
  (∀ (s : State) (es : List Event), s.events = .frameAck :: es →
    ∃ t, step s = .next t ∧ t.frameDirty = false ∧ t.events = es ∧ UnchangedExcept [.frameDirty, .events] s t) ∧
  (∀ s t : State, step s = .next t → s.frameDirty = true → t.frameDirty = false → ∃ es, s.events = .frameAck :: es)

/-! ### Timers and keys (45_timers_keys.md, 60_exceptions.md) -/

/-- 45_timers_keys.md R240, R241: FX07 reads DT and FX15 writes it. -/
def Obligations.DelayTimerIsReadAndWritten : Prop :=
  ∀ (s : State) (x : RegIdx),
    (encode (.ldVxDT x) &&& 0xF0FF = 0xF007 ∧
      ∃ t, exec (.ldVxDT x) s = .next t ∧ t.reg x = s.dt ∧ (∀ r, r ≠ x → t.reg r = s.reg r) ∧ t.pc = s.pc + 2 ∧
        t.drewThisCycle = false ∧ UnchangedExcept [.v, .pc, .drewThisCycle] s t) ∧
    (encode (.ldDT x) &&& 0xF0FF = 0xF015 ∧
      ∃ t, exec (.ldDT x) s = .next t ∧ t.dt = s.reg x ∧ t.pc = s.pc + 2 ∧ t.drewThisCycle = false ∧
        UnchangedExcept [.dt, .pc, .drewThisCycle] s t)

/-- 45_timers_keys.md R242: FX18 writes ST and beeps when it brings ST to 1 from another value. -/
def Obligations.SoundTimerIsWrittenAndMayBeep : Prop :=
  ∀ (s : State) (x : RegIdx), encode (.ldST x) &&& 0xF0FF = 0xF018 ∧
    ∃ t, exec (.ldST x) s = .next t ∧ t.st = s.reg x ∧
      t.outputs = (if (s.reg x).toNat = 1 ∧ s.st.toNat ≠ 1 then .beep :: s.outputs else s.outputs) ∧
      t.pc = s.pc + 2 ∧ t.drewThisCycle = false ∧ UnchangedExcept [.st, .outputs, .pc, .drewThisCycle] s t

/-- 45_timers_keys.md R245: FX0A waits at its own address with no key down, else takes the least key down, which stays in
the latch. -/
def Obligations.WaitForKeyTakesTheLeastKey : Prop :=
  ∀ (s : State) (x : RegIdx), encode (.ldVxK x) &&& 0xF0FF = 0xF00A ∧
    ((∀ k : Fin 16, s.keys[k] = false) →
      ∃ t, exec (.ldVxK x) s = .next t ∧ t.pc = s.pc ∧ t.waitKey = true ∧ t.drewThisCycle = false ∧
        UnchangedExcept [.waitKey, .drewThisCycle] s t) ∧
    (∀ k : Fin 16, s.keys[k] = true → (∀ j : Fin 16, j < k → s.keys[j] = false) →
      ∃ t, exec (.ldVxK x) s = .next t ∧ (t.reg x).toNat = k.val ∧ (∀ r, r ≠ x → t.reg r = s.reg r) ∧
        t.pc = s.pc + 2 ∧ t.waitKey = false ∧ t.drewThisCycle = false ∧
        UnchangedExcept [.v, .pc, .waitKey, .drewThisCycle] s t)

/-- 60_exceptions.md R275, R276: a Tick counts both timers down to 0 and no further, and happens exactly when the core is
alive, not halted, and not paused or `TICK_WHEN_PAUSED`. That a listed Tick which is not enabled is taken from the list and
does nothing else is the model's choice (log 16). -/
def Obligations.TickCountsBothTimersDown : Prop :=
  ∀ (s : State) (es : List Event), s.events = .tick :: es →
    (s.alive = true ∧ s.halted = false ∧ (s.paused = false ∨ s.params.tickWhenPaused = true) →
      ∃ t, step s = .next t ∧ t.dt.toNat = s.dt.toNat - 1 ∧ t.st.toNat = s.st.toNat - 1 ∧
        t.outputs = (if s.st.toNat = 2 then .beep :: s.outputs else s.outputs) ∧ t.events = es ∧
        UnchangedExcept [.dt, .st, .outputs, .events] s t) ∧
    (¬(s.alive = true ∧ s.halted = false ∧ (s.paused = false ∨ s.params.tickWhenPaused = true)) →
      step s = .next { s with events := es })

/-- 60_exceptions.md R277: a step of the machine puts out one Beep when it changes ST from a value other than 1 to exactly
1, and none otherwise. -/
def Obligations.BeepExactlyWhenStReachesOne : Prop :=
  ∀ s t : State, step s = .next t →
    t.outputs.count .beep = s.outputs.count .beep + (if s.st.toNat ≠ 1 ∧ t.st.toNat = 1 then 1 else 0)

/-- 60_exceptions.md R280: `keyDown(k)` and `keyUp(k)` set and clear K[k] in every run state and change nothing but the
latch; and no other event changes the latch (10_state.md R37). -/
def Obligations.OnlyTheHostMovesKeys : Prop :=
  (∀ (s : State) (es : List Event) (k : Nibble) (down : Bool),
    s.events = (if down then .keyDown k else .keyUp k) :: es →
      ∃ t, step s = .next t ∧ t.keys[k.toNat]? = some down ∧
        (∀ j : Fin 16, j.val ≠ k.toNat → t.keys[j] = s.keys[j]) ∧ t.events = es ∧
        UnchangedExcept [.keys, .events] s t) ∧
  (∀ s t : State, step s = .next t → (∀ k es, s.events ≠ .keyDown k :: es) → (∀ k es, s.events ≠ .keyUp k :: es) →
    t.keys = s.keys)

/-! ### Faults (60_exceptions.md) -/

/-- 60_exceptions.md R263, R262: a cycle of any instruction that halts leaves everything but `Halted` and the halt record
as it was, with PC, and records its own address and word. -/
def Obligations.FaultingCycleIsPrecise : Prop :=
  ∀ (i : Instr) (s t : State), s.halted = false → exec i s = .next t → t.halted = true →
    t.haltPC = s.pc ∧ t.haltOpcode = encode i ∧ UnchangedExcept [.halted, .haltRecord] s t

/-- 60_exceptions.md R261: each decoded instruction halts exactly when the table says, with the cause it says, and
otherwise leaves `Halted` and the halt record alone. SP is in its legal range (10_state.md R26). -/
def Obligations.InstructionsFaultExactlyAsTabled : Prop :=
  ∀ (i : Instr) (s : State), s.sp.toNat ≤ 16 →
    match FaultsOn s i with
    | some cause =>
      HaltsWith (exec i s) s cause (encode i) (if cause = .memOutOfRange then BitVec.ofNat 16 (max s.i.toNat 0x1000) else 0)
    | none => ∃ t, exec i s = .next t ∧ Unchanged s t .halted ∧ Unchanged s t .haltRecord

/-- 60_exceptions.md R264: in `Halted` no event but `reset`, `load` and `reload` changes anything an instruction can see,
the halt record, or `Halted` itself: only what the host's other commands act on changes. -/
def Obligations.HaltedUntilResetOrLoad : Prop :=
  ∀ s t : State, s.halted = true → step s = .next t →
    (∀ es, s.events ≠ .reset :: es) → (∀ rom es, s.events ≠ .load rom :: es) → (∀ es, s.events ≠ .reload :: es) →
    UnchangedExcept [.alive, .paused, .keys, .frameDirty, .events, .outputs] s t

/-! ### Host ports (60_exceptions.md R285, 70_reset_and_hazards.md) -/

/-- 10_state.md R42, 70_reset_and_hazards.md R320: the values after power-on, but for the model's own fields; the font
is the default of its parameter (00_scope.md R8; log 3). -/
def Obligations.PowerOnValues : Prop :=
  let s := State.reset
  (∀ r, s.reg r = 0) ∧ s.i = 0 ∧ s.pc = 0x0200 ∧ s.sp = 0 ∧ (∀ k : Fin 16, s.stack[k] = 0) ∧ s.dt = 0 ∧ s.st = 0 ∧
  (∀ k : Fin 80, s.byteAt k.val = Config.font[k]) ∧ (∀ a, 80 ≤ a → s.byteAt a = 0) ∧
  (∀ px py, pixel s.fb px py = false) ∧ s.frameDirty = true ∧ s.drewThisCycle = false ∧
  s.loaded = false ∧ s.alive = false ∧ s.paused = false ∧ s.waitKey = false ∧ s.halted = false ∧
  s.haltCause = .none ∧ s.haltPC = 0 ∧ s.haltOpcode = 0 ∧ s.haltAddr = 0 ∧ s.programSize = 0 ∧
  (∀ k : Fin 16, s.keys[k] = false) ∧ s.lastRom = none

/-- 70_reset_and_hazards.md R321: `reset()` in every state. -/
def Obligations.ResetPortResetsTheCore : Prop :=
  ∀ (s : State) (es : List Event), s.events = .reset :: es →
    ∃ t, step s = .next t ∧ (∀ r, t.reg r = 0) ∧ t.i = 0 ∧ t.sp = 0 ∧ (∀ k : Fin 16, t.stack[k] = 0) ∧
      t.pc = 0x0200 ∧ t.dt = 0 ∧ t.st = 0 ∧
      (∀ k : Fin 80, t.byteAt k.val = s.params.font[k]) ∧ (∀ a, 80 ≤ a → t.byteAt a = 0) ∧
      (∀ px py, pixel t.fb px py = false) ∧ t.frameDirty = true ∧ t.drewThisCycle = false ∧
      t.loaded = false ∧ t.alive = false ∧ t.paused = false ∧ t.waitKey = false ∧ t.halted = false ∧
      t.haltCause = .none ∧ t.haltPC = 0 ∧ t.haltOpcode = 0 ∧ t.haltAddr = 0 ∧ t.programSize = 0 ∧
      t.keys = s.keys ∧ t.lastRom = s.lastRom ∧ t.outputs = s.outputs ∧ t.events = es ∧ t.params = s.params ∧
      t.draws = s.draws

/-- 70_reset_and_hazards.md R330: `load(bytes)` in every state: too long, an error and nothing changed; else a full
reset and the bytes verbatim from 0x200. -/
def Obligations.LoadPortPlacesTheRom : Prop :=
  ∀ (s : State) (es : List Event) (rom : List Byte), s.events = .load rom :: es →
    (rom.length > 3584 →
      ∃ t, step s = .next t ∧ t.outputs = .loadFailed .bufferTooLarge :: s.outputs ∧ t.events = es ∧
        UnchangedExcept [.outputs, .events] s t) ∧
    (rom.length ≤ 3584 →
      ∃ t, step s = .next t ∧ t.outputs = .loadOk :: s.outputs ∧ t.events = es ∧
        (∀ k, k < rom.length → some (t.byteAt (0x200 + k)) = rom[k]?) ∧
        (∀ a, a < 0x200 ∨ 0x200 + rom.length ≤ a → t.byteAt a = if h : a < 80 then s.params.font[a] else 0) ∧
        t.programSize = rom.length ∧ t.loaded = true ∧ t.lastRom = some rom ∧ t.keys = s.keys ∧
        t.params = s.params ∧ t.draws = s.draws ∧
        UnchangedExcept [.mem, .programSize, .loaded, .lastRom, .keys, .params, .draws, .events, .outputs]
          State.reset t)

/-- 70_reset_and_hazards.md R331 and 95_test_vectors.md S7: on one machine (whose parameters no step changes), `reload()`
reproduces the memory image of the last successful load whatever has run since; and it is an error that changes nothing
when there was none. -/
def Obligations.ReloadReproducesTheMemoryImage : Prop :=
  (∀ (s s' t t' : State) (es es' : List Event) (rom : List Byte), romFits rom → s'.params = s.params →
    s.events = .load rom :: es → step s = .next t →
    s'.events = .reload :: es' → s'.lastRom = some rom → step s' = .next t' →
    t'.mem = t.mem ∧ (∀ a, t'.byteAt a = t.byteAt a) ∧ t'.programSize = t.programSize ∧ t'.lastRom = t.lastRom ∧
      t'.loaded = true) ∧
  (∀ (s : State) (es : List Event), s.events = .reload :: es → s.lastRom = none →
    ∃ t, step s = .next t ∧ t.outputs = .loadFailed .noRom :: s.outputs ∧ t.events = es ∧
      UnchangedExcept [.outputs, .events] s t)

/-- 70_reset_and_hazards.md R335, R336: `start`, `stop`, `pause`, `resume` move only `Alive` and `Paused`, each exactly when
its rule says. -/
def Obligations.LifecyclePortsMoveTheRunFlags : Prop :=
  ∀ (s : State) (es : List Event),
    (s.events = .start :: es →
      ∃ t, step s = .next t ∧ t.events = es ∧ UnchangedExcept [.alive, .paused, .events] s t ∧
        (if s.loaded = true ∧ s.alive = false ∧ s.halted = false then t.alive = true ∧ t.paused = false
          else t.alive = s.alive ∧ t.paused = s.paused)) ∧
    (s.events = .stop :: es →
      ∃ t, step s = .next t ∧ t.events = es ∧ UnchangedExcept [.alive, .events] s t ∧ t.alive = false) ∧
    (s.events = .pause :: es →
      ∃ t, step s = .next t ∧ t.events = es ∧ UnchangedExcept [.paused, .events] s t ∧
        t.paused = (if s.alive = true ∧ s.halted = false then true else s.paused)) ∧
    (s.events = .resume :: es →
      ∃ t, step s = .next t ∧ t.events = es ∧ UnchangedExcept [.paused, .events] s t ∧ t.paused = false)

/-- 70_reset_and_hazards.md R337, 10_state.md R31, 60_exceptions.md R294: which events move the view of the run flags, and
where to. With no event listed the next event is a free-running Cycle (log 5). -/
def Obligations.OnlyTheseEventsMoveTheView : Prop :=
  ∀ s t : State, step s = .next t → ∀ e, e = s.events.headD .cycle →
    (s.view = .halted → t.view ≠ .halted → t.view = .idle ∧ (e = .reset ∨ e = .reload ∨ ∃ rom, e = .load rom)) ∧
    (s.view ≠ .halted → t.view = .halted → e = .cycle ∨ e = .step) ∧
    (s.view = .idle → t.view ≠ .idle → e = .start ∧ s.loaded = true ∧
      t.view = if s.waitKey then .waitingForKey else .running) ∧
    (s.view ≠ .idle → t.view = .idle → e = .stop ∨ e = .reset ∨ e = .reload ∨ ∃ rom, e = .load rom) ∧
    (s.view ≠ .paused → t.view = .paused → e = .pause) ∧
    (s.view = .paused → t.view = .running ∨ t.view = .waitingForKey → e = .resume) ∧
    (s.view = .running → t.view = .waitingForKey → e = .cycle ∨ e = .step) ∧
    (s.view = .waitingForKey → t.view = .running → e = .cycle ∨ e = .step)

/-- 60_exceptions.md R285, "Queries change no state": each query puts out its result and changes nothing else;
`getPixel` outside the grid follows the edge policy (44_display.md R216). -/
def Obligations.QueriesOnlyAnswer : Prop :=
  ∀ (s : State) (es : List Event) (q : Event) (o : Output), s.events = q :: es →
    ((q = .isAlive ∧ o = .bit (s.alive && !s.halted)) ∨ (q = .isPaused ∧ o = .bit s.paused) ∨
      (q = .isWaitingForKey ∧ o = .bit s.waitKey) ∨ (q = .frameDirty ∧ o = .bit s.frameDirty) ∨
      (q = .getDelayTimer ∧ o = .byte s.dt) ∨ (q = .getSoundTimer ∧ o = .byte s.st) ∨
      (q = .haltInfo ∧ o = .haltInfo s.halted s.haltCause s.haltPC s.haltOpcode s.haltAddr) ∨
      (∃ (px : Fin 64) (py : Fin 32) (x y : Nat), q = .getPixel x y ∧ o = .bit (pixel s.fb px py) ∧
        (x = px.val ∧ y = py.val ∨
          s.params.spriteEdge = .wrap ∧ px.val = x % 64 ∧ py.val = y % 32)) ∨
      (∃ x y : Nat, q = .getPixel x y ∧ o = .bit false ∧ s.params.spriteEdge = .clip ∧ (x > 63 ∨ y > 31))) →
    ∃ t, step s = .next t ∧ t.outputs = o :: s.outputs ∧ t.events = es ∧ UnchangedExcept [.outputs, .events] s t

/-- 00_scope.md R7, R8, 10_state.md R41: the parameters of the step are no state: no step changes them (that they stand in
`State` is the model's choice, log 1, 3, 4). -/
def Obligations.ParametersNeverChange : Prop :=
  ∀ s t : State, step s = .next t → t.params = s.params

/-! ### The invariant of the machine -/

/-- The invariant holds after power-on (10_state.md R42). -/
def Obligations.PowerOnMeetsTheInvariant : Prop := MachineInv State.reset

/-- Every step keeps the invariant, from every state that meets it: memory in canonical form, SP in 0..16 and every stack
entry an address a fetch can advance to (10_state.md R26), PC at most 0x10FE (R23), the halt record and the run flags as
R30 to R32 say. -/
def Obligations.EveryStepKeepsTheInvariant : Prop :=
  ∀ s t : State, MachineInv s → step s = .next t → MachineInv t

/-- No state that meets the invariant stops the machine: every step, whatever the instruction or event, answers a next
state. -/
def Obligations.EveryStepFromTheInvariantAnswersNext : Prop :=
  ∀ s : State, MachineInv s → ∃ t, step s = .next t

/-- Memories in canonical form that, with the same font, read the same at every address are the same data. -/
def Obligations.CanonicalMemoriesAreDeterminedByTheirBytes : Prop :=
  ∀ (font : Font) (m m' : Memory), m.wf font → m'.wf font → (∀ a, m.read font a = m'.read font a) → m = m'
end

