-- ==== Sys2Proof/Laws/Encoding.lean ====
section
/-! SUPPORT. The fields of a packed word are the fields it was packed from (30_encoding.md R91, R92), and a word is packed
from its own fields. -/

namespace Sys2Proof

@[simp] theorem fieldTop_packNNN (top : Nibble) (nnn : Addr12) : fieldTop (packNNN top nnn) = top := by
  ext i h
  simp [fieldTop, packNNN, h, show (12 + i < 16) by omega]

@[simp] theorem fieldNNN_packNNN (top : Nibble) (nnn : Addr12) : fieldNNN (packNNN top nnn) = nnn := by
  ext i h
  simp [fieldNNN, packNNN, h, show i < 16 by omega]

@[simp] theorem fieldTop_packXKK (top : Nibble) (x : RegIdx) (kk : Byte) : fieldTop (packXKK top x kk) = top := by
  ext i h
  simp [fieldTop, packXKK, BitVec.getLsbD_of_ge kk (12 + i) (by omega), BitVec.getLsbD_of_ge x (12 + i - 8) (by omega), h,
    show (12 + i < 16) by omega]

@[simp] theorem fieldX_packXKK (top : Nibble) (x : RegIdx) (kk : Byte) : fieldX (packXKK top x kk) = x := by
  ext i h
  simp [fieldX, packXKK, h, show (8 + i < 16) by omega, show (8 + i < 12) by omega]

@[simp] theorem fieldKK_packXKK (top : Nibble) (x : RegIdx) (kk : Byte) : fieldKK (packXKK top x kk) = kk := by
  ext i h
  simp [fieldKK, packXKK, h, show i < 16 by omega, show i < 12 by omega]

@[simp] theorem fieldTop_packXYN (top : Nibble) (x y : RegIdx) (n : Nibble) : fieldTop (packXYN top x y n) = top := by
  ext i h
  simp [fieldTop, packXYN, BitVec.getLsbD_of_ge n (12 + i) (by omega), BitVec.getLsbD_of_ge x (12 + i - 8) (by omega),
    BitVec.getLsbD_of_ge y (12 + i - 4) (by omega), h, show (12 + i < 16) by omega]

@[simp] theorem fieldX_packXYN (top : Nibble) (x y : RegIdx) (n : Nibble) : fieldX (packXYN top x y n) = x := by
  ext i h
  simp [fieldX, packXYN, BitVec.getLsbD_of_ge n (8 + i) (by omega), BitVec.getLsbD_of_ge y (8 + i - 4) (by omega), h,
    show (8 + i < 16) by omega, show (8 + i < 12) by omega]

@[simp] theorem fieldY_packXYN (top : Nibble) (x y : RegIdx) (n : Nibble) : fieldY (packXYN top x y n) = y := by
  ext i h
  simp [fieldY, packXYN, h, show (4 + i < 16) by omega, show (4 + i < 12) by omega, show (4 + i < 8) by omega]

@[simp] theorem fieldN_packXYN (top : Nibble) (x y : RegIdx) (n : Nibble) : fieldN (packXYN top x y n) = n := by
  ext i h
  simp [fieldN, packXYN, h, show i < 16 by omega, show i < 12 by omega, show i < 8 by omega]

theorem packNNN_fields (op : Word) : packNNN (fieldTop op) (fieldNNN op) = op := by
  ext i h
  simp only [packNNN, fieldTop, fieldNNN, BitVec.getElem_or, BitVec.getElem_shiftLeft, BitVec.getElem_setWidth,
    BitVec.getLsbD_extractLsb']
  interval_cases i <;> simp

theorem packXKK_fields (op : Word) : packXKK (fieldTop op) (fieldX op) (fieldKK op) = op := by
  ext i h
  simp only [packXKK, fieldTop, fieldX, fieldKK, BitVec.getElem_or, BitVec.getElem_shiftLeft, BitVec.getElem_setWidth,
    BitVec.getLsbD_extractLsb']
  interval_cases i <;> simp

theorem packXYN_fields (op : Word) : packXYN (fieldTop op) (fieldX op) (fieldY op) (fieldN op) = op := by
  ext i h
  simp only [packXYN, fieldTop, fieldX, fieldY, fieldN, BitVec.getElem_or, BitVec.getElem_shiftLeft,
    BitVec.getElem_setWidth, BitVec.getLsbD_extractLsb']
  interval_cases i <;> simp

/-- The two bytes of a word make the word (20_memory.md R61). -/
@[simp] theorem wordOf_highByte_lowByte (op : Word) : wordOf (highByte op) (lowByte op) = op := by
  ext i h
  simp only [wordOf, highByte, lowByte, BitVec.getElem_or, BitVec.getElem_shiftLeft, BitVec.getElem_setWidth,
    BitVec.getLsbD_extractLsb']
  interval_cases i <;> simp

/-- `(hi << 8) OR lo` as a number (20_memory.md R63). -/
theorem toNat_wordOf (hi lo : Byte) : (wordOf hi lo).toNat = hi.toNat * 256 + lo.toNat := by
  have h1 := hi.isLt
  have h2 := lo.isLt
  have h0 : (hi.setWidth 16 <<< 8) &&& (lo.setWidth 16 : Word) = 0 := by
    ext i h
    simp only [BitVec.getElem_and, BitVec.getElem_shiftLeft, BitVec.getElem_setWidth]
    interval_cases i <;> simp
  rw [wordOf, ← BitVec.add_eq_or_of_and_eq_zero _ _ h0]
  simp [BitVec.toNat_add, BitVec.toNat_shiftLeft, Nat.shiftLeft_eq]
  omega

end Sys2Proof
end

