-- ==== Sys2Proof/Laws/Memory.lean ====
section
/-! SUPPORT. The laws of memory (20_memory.md): read after write, every other address is left alone, and every operation
keeps the canonical form. -/

namespace Sys2Proof.Machine

/-! ### The cell list -/

theorem lookup_insertCell_same (a : Nat) (b : Byte) (l : List Host.Cell) :
    Memory.lookup (Memory.insertCell a b l) a = some b := by
  induction l with
  | nil => simp [Memory.insertCell, Memory.lookup]
  | cons c rest ih =>
    obtain ⟨k, d⟩ := c
    simp only [Memory.insertCell]
    split
    · simp [Memory.lookup]
    · split
      · simp [Memory.lookup]
      · next h => simp [Memory.lookup, Ne.symm h, ih]

theorem lookup_insertCell_other {a a' : Nat} (b : Byte) (l : List Host.Cell) (h : a' ≠ a) :
    Memory.lookup (Memory.insertCell a b l) a' = Memory.lookup l a' := by
  induction l with
  | nil => simp [Memory.insertCell, Memory.lookup, Ne.symm h]
  | cons c rest ih =>
    obtain ⟨k, d⟩ := c
    simp only [Memory.insertCell]
    split
    · simp [Memory.lookup, Ne.symm h]
    · split
      · next e => subst e; simp [Memory.lookup, Ne.symm h]
      · simp [Memory.lookup, ih]

theorem mem_insertCell {a : Nat} {b : Byte} {l : List Host.Cell} {c : Host.Cell}
    (h : c ∈ Memory.insertCell a b l) : c = (a, b) ∨ c ∈ l := by
  induction l with
  | nil => simpa [Memory.insertCell] using h
  | cons d rest ih =>
    obtain ⟨k, e⟩ := d
    simp only [Memory.insertCell] at h
    split at h
    · simpa using h
    · split at h
      · rcases List.mem_cons.mp h with h | h
        · exact .inl h
        · exact .inr (List.mem_cons_of_mem _ h)
      · rcases List.mem_cons.mp h with h | h
        · exact .inr (h ▸ List.mem_cons_self)
        · exact (ih h).imp_right (List.mem_cons_of_mem _)

theorem mem_eraseCell {a : Nat} {l : List Host.Cell} {c : Host.Cell} (h : c ∈ Memory.eraseCell a l) : c ∈ l := by
  induction l with
  | nil => simp [Memory.eraseCell] at h
  | cons d rest ih =>
    obtain ⟨k, e⟩ := d
    simp only [Memory.eraseCell] at h
    split at h
    · exact List.mem_cons_of_mem _ h
    · rcases List.mem_cons.mp h with h | h
      · exact h ▸ List.mem_cons_self
      · exact List.mem_cons_of_mem _ (ih h)

/-- Addresses strictly rising. -/
abbrev Rising (l : List Host.Cell) : Prop := l.Pairwise (fun p q => p.1 < q.1)

theorem rising_insertCell (a : Nat) (b : Byte) {l : List Host.Cell} (h : Rising l) :
    Rising (Memory.insertCell a b l) := by
  induction l with
  | nil => simp [Memory.insertCell]
  | cons d rest ih =>
    obtain ⟨k, e⟩ := d
    have hk := (List.pairwise_cons.mp h).1
    have hr := (List.pairwise_cons.mp h).2
    simp only [Memory.insertCell]
    split
    · next lt =>
      refine List.pairwise_cons.mpr ⟨fun q hq => ?_, h⟩
      rcases List.mem_cons.mp hq with rfl | hq
      · exact lt
      · exact lt.trans (hk q hq)
    · split
      · next eq => subst eq; exact List.pairwise_cons.mpr ⟨hk, hr⟩
      · refine List.pairwise_cons.mpr ⟨fun q hq => ?_, ih hr⟩
        rcases mem_insertCell hq with rfl | hq
        · simp only; omega
        · exact hk q hq

theorem rising_eraseCell (a : Nat) {l : List Host.Cell} (h : Rising l) : Rising (Memory.eraseCell a l) := by
  induction l with
  | nil => simp [Memory.eraseCell]
  | cons d rest ih =>
    obtain ⟨k, e⟩ := d
    have hk := (List.pairwise_cons.mp h).1
    have hr := (List.pairwise_cons.mp h).2
    simp only [Memory.eraseCell]
    split
    · exact hr
    · exact List.pairwise_cons.mpr ⟨fun q hq => hk q (mem_eraseCell hq), ih hr⟩

theorem lookup_none_of_lt {a : Nat} {l : List Host.Cell} (h : ∀ c ∈ l, a < c.1) : Memory.lookup l a = none := by
  induction l with
  | nil => rfl
  | cons d rest ih =>
    obtain ⟨k, e⟩ := d
    have hk : a < k := h (k, e) List.mem_cons_self
    simp [Memory.lookup, (Nat.ne_of_lt hk).symm, ih fun c hc => h c (List.mem_cons_of_mem _ hc)]

theorem lookup_eraseCell_same (a : Nat) {l : List Host.Cell} (h : Rising l) :
    Memory.lookup (Memory.eraseCell a l) a = none := by
  induction l with
  | nil => rfl
  | cons d rest ih =>
    obtain ⟨k, e⟩ := d
    have hk := (List.pairwise_cons.mp h).1
    have hr := (List.pairwise_cons.mp h).2
    simp only [Memory.eraseCell]
    split
    · next eq => subst eq; exact lookup_none_of_lt hk
    · next ne => simp [Memory.lookup, ne, ih hr]

theorem lookup_eraseCell_other {a a' : Nat} (l : List Host.Cell) (h : a' ≠ a) :
    Memory.lookup (Memory.eraseCell a l) a' = Memory.lookup l a' := by
  induction l with
  | nil => rfl
  | cons d rest ih =>
    obtain ⟨k, e⟩ := d
    simp only [Memory.eraseCell]
    split
    · next eq => subst eq; simp [Memory.lookup, Ne.symm h]
    · simp [Memory.lookup, ih]

/-! ### `read` and `write` (20_memory.md R63, R64, R71) -/

/-- A read after a write to the same address gives the byte written. -/
theorem read_write_same {m : Memory} {font : Font} (hm : m.wf font) {a : Nat} (ha : a ≤ 0x0FFF) (b : Byte) : (m.write font a b).read font a = b := by
  unfold Memory.write Memory.read
  rw [if_pos ha]
  split
  · next e => simp [lookup_eraseCell_same a hm.1, e]
  · simp [lookup_insertCell_same]

/-- A write leaves every other address alone. -/
theorem read_write_other (m : Memory) (font : Font) {a a' : Nat} (h : a' ≠ a) (b : Byte) : (m.write font a b).read font a' = m.read font a' := by
  unfold Memory.write Memory.read
  split
  · split
    · simp [lookup_eraseCell_other _ h]
    · simp [lookup_insertCell_other b _ h]
  · rfl

/-- A write keeps the canonical form. -/
theorem wf_write {m : Memory} {font : Font} (hm : m.wf font) (a : Nat) (b : Byte) : (m.write font a b).wf font := by
  unfold Memory.write
  split
  · next ha =>
    split
    · exact ⟨rising_eraseCell a hm.1, fun c hc => hm.2 c (mem_eraseCell hc)⟩
    · next hb =>
      refine ⟨rising_insertCell a b hm.1, fun c hc => ?_⟩
      rcases mem_insertCell hc with rfl | hc
      · exact ⟨ha, hb⟩
      · exact hm.2 c hc
  · exact hm

/-- Reset lists nothing. -/
theorem wf_reset (font : Font) : State.reset.mem.wf font := by
  simp [State.reset, Memory.wf]

/-! ### `writeBytes` (43_index_memory.md R196) -/

theorem wf_writeBytes {m : Memory} {font : Font} (hm : m.wf font) (a : Nat) (bs : List Byte) : (m.writeBytes font a bs).wf font := by
  induction bs generalizing m a with
  | nil => exact hm
  | cons b rest ih => exact ih (wf_write hm a b) (a + 1)

/-- Bytes outside the written range read as before. -/
theorem read_writeBytes_outside (m : Memory) (font : Font) (a : Nat) (bs : List Byte) {a' : Nat}
    (h : a' < a ∨ a + bs.length ≤ a') : (m.writeBytes font a bs).read font a' = m.read font a' := by
  induction bs generalizing m a with
  | nil => rfl
  | cons b rest ih =>
    simp only [List.length_cons] at h
    rw [Memory.writeBytes, ih _ _ (by omega), read_write_other _ _ (by omega)]

/-- The k-th written byte reads back. -/
theorem read_writeBytes_inside {m : Memory} {font : Font} (hm : m.wf font) (a : Nat) (bs : List Byte) {k : Nat} (hk : k < bs.length)
    (ha : a + k ≤ 0x0FFF) : (m.writeBytes font a bs).read font (a + k) = bs[k] := by
  induction bs generalizing m a k with
  | nil => simp at hk
  | cons b rest ih =>
    rw [Memory.writeBytes]
    cases k with
    | zero =>
      rw [read_writeBytes_outside _ _ _ _ (by omega)]
      simpa using read_write_same hm (by omega) b
    | succ k =>
      have := ih (wf_write hm a b) (a + 1) (k := k) (by simpa using hk) (by omega)
      simpa [Nat.add_assoc, Nat.add_comm 1 k] using this

/-! ### The machine's memory -/

/-- A store keeps the canonical form. -/
theorem wf_storeBytes {s : State} (hm : s.mem.wf s.params.font) (a : Nat) (bs : List Byte) :
    (s.storeBytes a bs).mem.wf (s.storeBytes a bs).params.font := wf_writeBytes hm a bs

/-- What a store leaves in every address, when all the addresses it stores to exist. -/
theorem byteAt_storeBytes {s : State} (hm : s.mem.wf s.params.font) {a : Nat} {bs : List Byte}
    (ha : a + bs.length ≤ 0x1000) (a' : Nat) :
    (s.storeBytes a bs).byteAt a' = if a ≤ a' then bs[a' - a]?.getD (s.byteAt a') else s.byteAt a' := by
  by_cases h : a ≤ a'
  · by_cases hk : a' - a < bs.length
    · have key := read_writeBytes_inside hm a bs hk (by omega)
      rw [Nat.add_sub_cancel' h] at key
      rw [if_pos h, List.getElem?_eq_getElem hk]
      exact key
    · rw [if_pos h, List.getElem?_eq_none (Nat.not_lt.mp hk)]
      exact read_writeBytes_outside _ _ _ _ (by omega)
  · rw [if_neg h]
    exact read_writeBytes_outside _ _ _ _ (by omega)

/-- After reset, and with any `FONT`, memory reads as its reset contents (10_state.md R42). -/
theorem byteAt_hostReset (s : State) (a : Nat) : s.hostReset.byteAt a = Memory.unlisted s.params.font a := rfl

/-- The reset contents above the font are 0. -/
theorem unlisted_of_le (font : Font) {a : Nat} (h : 80 ≤ a) : Memory.unlisted font a = 0 := by
  simp [Memory.unlisted, Nat.not_lt.mpr h]

/-- The reset contents of the font region are the font. -/
theorem unlisted_of_lt (font : Font) {a : Nat} (h : a < 80) : Memory.unlisted font a = font[a] := by
  simp [Memory.unlisted, h]

end Sys2Proof.Machine
end

