-- ==== Sys2Proof/Laws/State.lean ====
section
/-! SUPPORT. One lemma per field per update of the state, true by rfl; what the compound register writes and the
conditional updates change, said once. -/

namespace Sys2Proof.Machine

/-! ### `beginCycle` (40_cycle.md R122, R123) -/

@[simp] theorem beginCycle_v (s : State) : s.beginCycle.v = s.v := rfl
@[simp] theorem beginCycle_pc (s : State) : s.beginCycle.pc = s.pc + 2 := rfl
@[simp] theorem beginCycle_i (s : State) : s.beginCycle.i = s.i := rfl
@[simp] theorem beginCycle_sp (s : State) : s.beginCycle.sp = s.sp := rfl
@[simp] theorem beginCycle_stack (s : State) : s.beginCycle.stack = s.stack := rfl
@[simp] theorem beginCycle_dt (s : State) : s.beginCycle.dt = s.dt := rfl
@[simp] theorem beginCycle_st (s : State) : s.beginCycle.st = s.st := rfl
@[simp] theorem beginCycle_mem (s : State) : s.beginCycle.mem = s.mem := rfl
@[simp] theorem beginCycle_fb (s : State) : s.beginCycle.fb = s.fb := rfl
@[simp] theorem beginCycle_frameDirty (s : State) : s.beginCycle.frameDirty = s.frameDirty := rfl
@[simp] theorem beginCycle_drewThisCycle (s : State) : s.beginCycle.drewThisCycle = false := rfl
@[simp] theorem beginCycle_loaded (s : State) : s.beginCycle.loaded = s.loaded := rfl
@[simp] theorem beginCycle_alive (s : State) : s.beginCycle.alive = s.alive := rfl
@[simp] theorem beginCycle_paused (s : State) : s.beginCycle.paused = s.paused := rfl
@[simp] theorem beginCycle_waitKey (s : State) : s.beginCycle.waitKey = s.waitKey := rfl
@[simp] theorem beginCycle_halted (s : State) : s.beginCycle.halted = s.halted := rfl
@[simp] theorem beginCycle_haltCause (s : State) : s.beginCycle.haltCause = s.haltCause := rfl
@[simp] theorem beginCycle_haltPC (s : State) : s.beginCycle.haltPC = s.haltPC := rfl
@[simp] theorem beginCycle_haltOpcode (s : State) : s.beginCycle.haltOpcode = s.haltOpcode := rfl
@[simp] theorem beginCycle_haltAddr (s : State) : s.beginCycle.haltAddr = s.haltAddr := rfl
@[simp] theorem beginCycle_programSize (s : State) : s.beginCycle.programSize = s.programSize := rfl
@[simp] theorem beginCycle_lastRom (s : State) : s.beginCycle.lastRom = s.lastRom := rfl
@[simp] theorem beginCycle_keys (s : State) : s.beginCycle.keys = s.keys := rfl
@[simp] theorem beginCycle_params (s : State) : s.beginCycle.params = s.params := rfl
@[simp] theorem beginCycle_draws (s : State) : s.beginCycle.draws = s.draws := rfl
@[simp] theorem beginCycle_events (s : State) : s.beginCycle.events = s.events := rfl
@[simp] theorem beginCycle_outputs (s : State) : s.beginCycle.outputs = s.outputs := rfl
@[simp] theorem beginCycle_byteAt (s : State) (a : Nat) : s.beginCycle.byteAt a = s.byteAt a := rfl
@[simp] theorem beginCycle_reg (s : State) (r : RegIdx) : s.beginCycle.reg r = s.reg r := rfl

/-! ### `setReg` (10_state.md R20) -/

@[simp] theorem setReg_pc (s : State) (x : RegIdx) (b : Byte) : (s.setReg x b).pc = s.pc := rfl
@[simp] theorem setReg_i (s : State) (x : RegIdx) (b : Byte) : (s.setReg x b).i = s.i := rfl
@[simp] theorem setReg_sp (s : State) (x : RegIdx) (b : Byte) : (s.setReg x b).sp = s.sp := rfl
@[simp] theorem setReg_stack (s : State) (x : RegIdx) (b : Byte) : (s.setReg x b).stack = s.stack := rfl
@[simp] theorem setReg_dt (s : State) (x : RegIdx) (b : Byte) : (s.setReg x b).dt = s.dt := rfl
@[simp] theorem setReg_st (s : State) (x : RegIdx) (b : Byte) : (s.setReg x b).st = s.st := rfl
@[simp] theorem setReg_mem (s : State) (x : RegIdx) (b : Byte) : (s.setReg x b).mem = s.mem := rfl
@[simp] theorem setReg_fb (s : State) (x : RegIdx) (b : Byte) : (s.setReg x b).fb = s.fb := rfl
@[simp] theorem setReg_frameDirty (s : State) (x : RegIdx) (b : Byte) : (s.setReg x b).frameDirty = s.frameDirty := rfl
@[simp] theorem setReg_drewThisCycle (s : State) (x : RegIdx) (b : Byte) : (s.setReg x b).drewThisCycle = s.drewThisCycle := rfl
@[simp] theorem setReg_loaded (s : State) (x : RegIdx) (b : Byte) : (s.setReg x b).loaded = s.loaded := rfl
@[simp] theorem setReg_alive (s : State) (x : RegIdx) (b : Byte) : (s.setReg x b).alive = s.alive := rfl
@[simp] theorem setReg_paused (s : State) (x : RegIdx) (b : Byte) : (s.setReg x b).paused = s.paused := rfl
@[simp] theorem setReg_waitKey (s : State) (x : RegIdx) (b : Byte) : (s.setReg x b).waitKey = s.waitKey := rfl
@[simp] theorem setReg_halted (s : State) (x : RegIdx) (b : Byte) : (s.setReg x b).halted = s.halted := rfl
@[simp] theorem setReg_haltCause (s : State) (x : RegIdx) (b : Byte) : (s.setReg x b).haltCause = s.haltCause := rfl
@[simp] theorem setReg_haltPC (s : State) (x : RegIdx) (b : Byte) : (s.setReg x b).haltPC = s.haltPC := rfl
@[simp] theorem setReg_haltOpcode (s : State) (x : RegIdx) (b : Byte) : (s.setReg x b).haltOpcode = s.haltOpcode := rfl
@[simp] theorem setReg_haltAddr (s : State) (x : RegIdx) (b : Byte) : (s.setReg x b).haltAddr = s.haltAddr := rfl
@[simp] theorem setReg_programSize (s : State) (x : RegIdx) (b : Byte) : (s.setReg x b).programSize = s.programSize := rfl
@[simp] theorem setReg_lastRom (s : State) (x : RegIdx) (b : Byte) : (s.setReg x b).lastRom = s.lastRom := rfl
@[simp] theorem setReg_keys (s : State) (x : RegIdx) (b : Byte) : (s.setReg x b).keys = s.keys := rfl
@[simp] theorem setReg_params (s : State) (x : RegIdx) (b : Byte) : (s.setReg x b).params = s.params := rfl
@[simp] theorem setReg_draws (s : State) (x : RegIdx) (b : Byte) : (s.setReg x b).draws = s.draws := rfl
@[simp] theorem setReg_events (s : State) (x : RegIdx) (b : Byte) : (s.setReg x b).events = s.events := rfl
@[simp] theorem setReg_outputs (s : State) (x : RegIdx) (b : Byte) : (s.setReg x b).outputs = s.outputs := rfl

@[simp] theorem setReg_byteAt (s : State) (x : RegIdx) (b : Byte) (a : Nat) : (s.setReg x b).byteAt a = s.byteAt a := rfl

@[simp] theorem reg_setReg_same (s : State) (x : RegIdx) (b : Byte) : (s.setReg x b).reg x = b := by
  simp [State.reg, State.setReg]

theorem reg_setReg_other (s : State) {x r : RegIdx} (b : Byte) (h : r ≠ x) : (s.setReg x b).reg r = s.reg r := by
  have h' : x.toNat ≠ r.toNat := fun e => h (BitVec.eq_of_toNat_eq e.symm)
  simp [State.reg, State.setReg, Vector.getElem_set_ne _ _ h']

/-- What a register write does to every register. -/
theorem reg_setReg (s : State) (x r : RegIdx) (b : Byte) :
    (s.setReg x b).reg r = if r = x then b else s.reg r := by
  split
  · next h => subst h; exact reg_setReg_same s r b
  · next h => exact reg_setReg_other s b h

/-! ### `raise` (60_exceptions.md R262) -/

@[simp] theorem raise_v (s : State) (cause : HaltCause) (op addr : Word) :
    (s.raise cause op addr).v = s.v := rfl
@[simp] theorem raise_pc (s : State) (cause : HaltCause) (op addr : Word) :
    (s.raise cause op addr).pc = s.pc := rfl
@[simp] theorem raise_i (s : State) (cause : HaltCause) (op addr : Word) :
    (s.raise cause op addr).i = s.i := rfl
@[simp] theorem raise_sp (s : State) (cause : HaltCause) (op addr : Word) :
    (s.raise cause op addr).sp = s.sp := rfl
@[simp] theorem raise_stack (s : State) (cause : HaltCause) (op addr : Word) :
    (s.raise cause op addr).stack = s.stack := rfl
@[simp] theorem raise_dt (s : State) (cause : HaltCause) (op addr : Word) :
    (s.raise cause op addr).dt = s.dt := rfl
@[simp] theorem raise_st (s : State) (cause : HaltCause) (op addr : Word) :
    (s.raise cause op addr).st = s.st := rfl
@[simp] theorem raise_mem (s : State) (cause : HaltCause) (op addr : Word) :
    (s.raise cause op addr).mem = s.mem := rfl
@[simp] theorem raise_fb (s : State) (cause : HaltCause) (op addr : Word) :
    (s.raise cause op addr).fb = s.fb := rfl
@[simp] theorem raise_frameDirty (s : State) (cause : HaltCause) (op addr : Word) :
    (s.raise cause op addr).frameDirty = s.frameDirty := rfl
@[simp] theorem raise_drewThisCycle (s : State) (cause : HaltCause) (op addr : Word) :
    (s.raise cause op addr).drewThisCycle = s.drewThisCycle := rfl
@[simp] theorem raise_loaded (s : State) (cause : HaltCause) (op addr : Word) :
    (s.raise cause op addr).loaded = s.loaded := rfl
@[simp] theorem raise_alive (s : State) (cause : HaltCause) (op addr : Word) :
    (s.raise cause op addr).alive = s.alive := rfl
@[simp] theorem raise_paused (s : State) (cause : HaltCause) (op addr : Word) :
    (s.raise cause op addr).paused = s.paused := rfl
@[simp] theorem raise_waitKey (s : State) (cause : HaltCause) (op addr : Word) :
    (s.raise cause op addr).waitKey = s.waitKey := rfl
@[simp] theorem raise_halted (s : State) (cause : HaltCause) (op addr : Word) :
    (s.raise cause op addr).halted = true := rfl
@[simp] theorem raise_haltCause (s : State) (cause : HaltCause) (op addr : Word) :
    (s.raise cause op addr).haltCause = cause := rfl
@[simp] theorem raise_haltPC (s : State) (cause : HaltCause) (op addr : Word) :
    (s.raise cause op addr).haltPC = s.pc := rfl
@[simp] theorem raise_haltOpcode (s : State) (cause : HaltCause) (op addr : Word) :
    (s.raise cause op addr).haltOpcode = op := rfl
@[simp] theorem raise_haltAddr (s : State) (cause : HaltCause) (op addr : Word) :
    (s.raise cause op addr).haltAddr = addr := rfl
@[simp] theorem raise_programSize (s : State) (cause : HaltCause) (op addr : Word) :
    (s.raise cause op addr).programSize = s.programSize := rfl
@[simp] theorem raise_lastRom (s : State) (cause : HaltCause) (op addr : Word) :
    (s.raise cause op addr).lastRom = s.lastRom := rfl
@[simp] theorem raise_keys (s : State) (cause : HaltCause) (op addr : Word) :
    (s.raise cause op addr).keys = s.keys := rfl
@[simp] theorem raise_params (s : State) (cause : HaltCause) (op addr : Word) :
    (s.raise cause op addr).params = s.params := rfl
@[simp] theorem raise_draws (s : State) (cause : HaltCause) (op addr : Word) :
    (s.raise cause op addr).draws = s.draws := rfl
@[simp] theorem raise_events (s : State) (cause : HaltCause) (op addr : Word) :
    (s.raise cause op addr).events = s.events := rfl
@[simp] theorem raise_outputs (s : State) (cause : HaltCause) (op addr : Word) :
    (s.raise cause op addr).outputs = s.outputs := rfl
@[simp] theorem raise_byteAt (s : State) (cause : HaltCause) (op addr : Word) (a : Nat) :
    (s.raise cause op addr).byteAt a = s.byteAt a := rfl
@[simp] theorem raise_reg (s : State) (cause : HaltCause) (op addr : Word) (r : RegIdx) :
    (s.raise cause op addr).reg r = s.reg r := rfl

/-! ### `emit` (60_exceptions.md R277, R285) -/

@[simp] theorem emit_v (s : State) (o : Output) : (s.emit o).v = s.v := rfl
@[simp] theorem emit_pc (s : State) (o : Output) : (s.emit o).pc = s.pc := rfl
@[simp] theorem emit_i (s : State) (o : Output) : (s.emit o).i = s.i := rfl
@[simp] theorem emit_sp (s : State) (o : Output) : (s.emit o).sp = s.sp := rfl
@[simp] theorem emit_stack (s : State) (o : Output) : (s.emit o).stack = s.stack := rfl
@[simp] theorem emit_dt (s : State) (o : Output) : (s.emit o).dt = s.dt := rfl
@[simp] theorem emit_st (s : State) (o : Output) : (s.emit o).st = s.st := rfl
@[simp] theorem emit_mem (s : State) (o : Output) : (s.emit o).mem = s.mem := rfl
@[simp] theorem emit_fb (s : State) (o : Output) : (s.emit o).fb = s.fb := rfl
@[simp] theorem emit_frameDirty (s : State) (o : Output) : (s.emit o).frameDirty = s.frameDirty := rfl
@[simp] theorem emit_drewThisCycle (s : State) (o : Output) : (s.emit o).drewThisCycle = s.drewThisCycle := rfl
@[simp] theorem emit_loaded (s : State) (o : Output) : (s.emit o).loaded = s.loaded := rfl
@[simp] theorem emit_alive (s : State) (o : Output) : (s.emit o).alive = s.alive := rfl
@[simp] theorem emit_paused (s : State) (o : Output) : (s.emit o).paused = s.paused := rfl
@[simp] theorem emit_waitKey (s : State) (o : Output) : (s.emit o).waitKey = s.waitKey := rfl
@[simp] theorem emit_halted (s : State) (o : Output) : (s.emit o).halted = s.halted := rfl
@[simp] theorem emit_haltCause (s : State) (o : Output) : (s.emit o).haltCause = s.haltCause := rfl
@[simp] theorem emit_haltPC (s : State) (o : Output) : (s.emit o).haltPC = s.haltPC := rfl
@[simp] theorem emit_haltOpcode (s : State) (o : Output) : (s.emit o).haltOpcode = s.haltOpcode := rfl
@[simp] theorem emit_haltAddr (s : State) (o : Output) : (s.emit o).haltAddr = s.haltAddr := rfl
@[simp] theorem emit_programSize (s : State) (o : Output) : (s.emit o).programSize = s.programSize := rfl
@[simp] theorem emit_lastRom (s : State) (o : Output) : (s.emit o).lastRom = s.lastRom := rfl
@[simp] theorem emit_keys (s : State) (o : Output) : (s.emit o).keys = s.keys := rfl
@[simp] theorem emit_params (s : State) (o : Output) : (s.emit o).params = s.params := rfl
@[simp] theorem emit_draws (s : State) (o : Output) : (s.emit o).draws = s.draws := rfl
@[simp] theorem emit_events (s : State) (o : Output) : (s.emit o).events = s.events := rfl
@[simp] theorem emit_outputs (s : State) (o : Output) : (s.emit o).outputs = o :: s.outputs := rfl
@[simp] theorem emit_byteAt (s : State) (o : Output) (a : Nat) : (s.emit o).byteAt a = s.byteAt a := rfl
@[simp] theorem emit_reg (s : State) (o : Output) (r : RegIdx) : (s.emit o).reg r = s.reg r := rfl

/-! ### `storeBytes` (43_index_memory.md R196) -/

@[simp] theorem storeBytes_v (s : State) (a : Nat) (bs : List Byte) : (s.storeBytes a bs).v = s.v := rfl
@[simp] theorem storeBytes_pc (s : State) (a : Nat) (bs : List Byte) : (s.storeBytes a bs).pc = s.pc := rfl
@[simp] theorem storeBytes_i (s : State) (a : Nat) (bs : List Byte) : (s.storeBytes a bs).i = s.i := rfl
@[simp] theorem storeBytes_sp (s : State) (a : Nat) (bs : List Byte) : (s.storeBytes a bs).sp = s.sp := rfl
@[simp] theorem storeBytes_stack (s : State) (a : Nat) (bs : List Byte) : (s.storeBytes a bs).stack = s.stack := rfl
@[simp] theorem storeBytes_dt (s : State) (a : Nat) (bs : List Byte) : (s.storeBytes a bs).dt = s.dt := rfl
@[simp] theorem storeBytes_st (s : State) (a : Nat) (bs : List Byte) : (s.storeBytes a bs).st = s.st := rfl
@[simp] theorem storeBytes_fb (s : State) (a : Nat) (bs : List Byte) : (s.storeBytes a bs).fb = s.fb := rfl
@[simp] theorem storeBytes_frameDirty (s : State) (a : Nat) (bs : List Byte) : (s.storeBytes a bs).frameDirty = s.frameDirty := rfl
@[simp] theorem storeBytes_drewThisCycle (s : State) (a : Nat) (bs : List Byte) : (s.storeBytes a bs).drewThisCycle = s.drewThisCycle := rfl
@[simp] theorem storeBytes_loaded (s : State) (a : Nat) (bs : List Byte) : (s.storeBytes a bs).loaded = s.loaded := rfl
@[simp] theorem storeBytes_alive (s : State) (a : Nat) (bs : List Byte) : (s.storeBytes a bs).alive = s.alive := rfl
@[simp] theorem storeBytes_paused (s : State) (a : Nat) (bs : List Byte) : (s.storeBytes a bs).paused = s.paused := rfl
@[simp] theorem storeBytes_waitKey (s : State) (a : Nat) (bs : List Byte) : (s.storeBytes a bs).waitKey = s.waitKey := rfl
@[simp] theorem storeBytes_halted (s : State) (a : Nat) (bs : List Byte) : (s.storeBytes a bs).halted = s.halted := rfl
@[simp] theorem storeBytes_haltCause (s : State) (a : Nat) (bs : List Byte) : (s.storeBytes a bs).haltCause = s.haltCause := rfl
@[simp] theorem storeBytes_haltPC (s : State) (a : Nat) (bs : List Byte) : (s.storeBytes a bs).haltPC = s.haltPC := rfl
@[simp] theorem storeBytes_haltOpcode (s : State) (a : Nat) (bs : List Byte) : (s.storeBytes a bs).haltOpcode = s.haltOpcode := rfl
@[simp] theorem storeBytes_haltAddr (s : State) (a : Nat) (bs : List Byte) : (s.storeBytes a bs).haltAddr = s.haltAddr := rfl
@[simp] theorem storeBytes_programSize (s : State) (a : Nat) (bs : List Byte) : (s.storeBytes a bs).programSize = s.programSize := rfl
@[simp] theorem storeBytes_lastRom (s : State) (a : Nat) (bs : List Byte) : (s.storeBytes a bs).lastRom = s.lastRom := rfl
@[simp] theorem storeBytes_keys (s : State) (a : Nat) (bs : List Byte) : (s.storeBytes a bs).keys = s.keys := rfl
@[simp] theorem storeBytes_params (s : State) (a : Nat) (bs : List Byte) : (s.storeBytes a bs).params = s.params := rfl
@[simp] theorem storeBytes_draws (s : State) (a : Nat) (bs : List Byte) : (s.storeBytes a bs).draws = s.draws := rfl
@[simp] theorem storeBytes_events (s : State) (a : Nat) (bs : List Byte) : (s.storeBytes a bs).events = s.events := rfl
@[simp] theorem storeBytes_outputs (s : State) (a : Nat) (bs : List Byte) : (s.storeBytes a bs).outputs = s.outputs := rfl
@[simp] theorem storeBytes_mem (s : State) (a : Nat) (bs : List Byte) :
    (s.storeBytes a bs).mem = s.mem.writeBytes s.params.font a bs := rfl
@[simp] theorem storeBytes_reg (s : State) (a : Nat) (bs : List Byte) (r : RegIdx) : (s.storeBytes a bs).reg r = s.reg r := rfl

/-! ### Compound updates, each as one record update -/

/-- A skip changes PC alone (41_control_flow.md section 3). -/
theorem skipIf_eq (c : Bool) (s : State) : s.skipIf c = { s with pc := if c then s.pc + 2 else s.pc } := by
  cases c <;> rfl

/-- A Beep changes the outputs alone (60_exceptions.md R277). -/
theorem beepOn_eq (old new : Byte) (s : State) :
    State.beepOn old new s = { s with outputs := if new = 1 ∧ old ≠ 1 then .beep :: s.outputs else s.outputs } := by
  unfold State.beepOn
  split <;> rfl

/-- What writing a list of bytes from register `k` up leaves in register `r` (43_index_memory.md R195). -/
theorem getElem_setRegsFrom (v : Vector Byte 16) (k : Nat) (bs : List Byte) (r : Nat) (hr : r < 16) :
    (setRegsFrom v k bs)[r] = if h : k ≤ r ∧ r - k < bs.length then bs[r - k]'h.2 else v[r] := by
  induction bs generalizing v k with
  | nil => simp [setRegsFrom]
  | cons b rest ih =>
    rw [setRegsFrom, ih]
    by_cases h1 : k + 1 ≤ r
    · have e : r - k = (r - (k + 1)) + 1 := by omega
      have ne : k ≠ r := by omega
      simp [h1, e, show k ≤ r by omega, ne]
    · by_cases h2 : k = r
      · subst h2; simp
      · simp [h1, h2, show ¬k ≤ r by omega]

/-- What "flag first, result last" leaves in every register (42_alu.md R160). -/
theorem reg_flagThenResult (s : State) (x r : RegIdx) (flag result : Byte) :
    (s.flagThenResult x flag result).reg r = if r = x then result else if r = vf then flag else s.reg r := by
  rw [State.flagThenResult, reg_setReg, reg_setReg]

/-- What "result first, 0 last" leaves in every register (42_alu.md R160). -/
theorem reg_resultThenZero (s : State) (x r : RegIdx) (result : Byte) :
    (s.resultThenZero x result).reg r = if r = vf then 0 else if r = x then result else s.reg r := by
  rw [State.resultThenZero, reg_setReg, reg_setReg]

theorem flagThenResult_eq (s : State) (x : RegIdx) (flag result : Byte) :
    s.flagThenResult x flag result = { s with v := (s.flagThenResult x flag result).v } := rfl

theorem resultThenZero_eq (s : State) (x : RegIdx) (result : Byte) :
    s.resultThenZero x result = { s with v := (s.resultThenZero x result).v } := rfl

/-- An instruction that touches memory either raises `MemOutOfRange` or gives its own next state (60_exceptions.md
R265). -/
theorem checkRange_cases (i : Instr) (n : Nat) (s t : State) :
    (outOfRange s.i n = true ∧
      checkRange i n s t = s.raise .memOutOfRange (encode i) (lowestOutOfRange s.i)) ∨
    (outOfRange s.i n = false ∧ checkRange i n s t = t) := by
  unfold checkRange
  cases h : outOfRange s.i n <;> simp

end Sys2Proof.Machine
end

