-- ==== Sys2Proof/Laws/Operations.lean ====
section
/-! SUPPORT. What the shared operations do, said once: taking a fault, the range check's address, the input latch, and
sprite pixels. -/

namespace Sys2Proof.Machine

/-- Raising a fault halts with its record and changes nothing else (60_exceptions.md R262, R263). -/
theorem raise_haltsWith (s : State) (cause : HaltCause) (op addr : Word) :
    HaltsWith (.next (s.raise cause op addr)) s cause op addr := by
  refine ⟨_, rfl, rfl, rfl, rfl, rfl, rfl, fun p hp => ?_⟩
  cases p <;> first | exact absurd hp (by decide) | exact rfl | exact fun _ => rfl | exact fun _ _ => rfl

/-- The address recorded by a data access out of range (60_exceptions.md R261). -/
theorem lowestOutOfRange_eq (i : Word) : lowestOutOfRange i = BitVec.ofNat 16 (max i.toNat 0x1000) := by
  unfold lowestOutOfRange
  split
  · next h => rw [max_eq_right h]; rfl
  · next h => rw [max_eq_left (by omega)]; simp

/-! ### The bytes that FX55 stores (43_index_memory.md R194) -/

@[simp] theorem length_regsUpTo (s : State) (x : RegIdx) : (s.regsUpTo x).length = x.toNat + 1 := by
  simp [State.regsUpTo]

/-- The k-th byte is V[k], up to V[x]. -/
theorem getElem?_regsUpTo (s : State) (x : RegIdx) {k : Nat} (h : k ≤ x.toNat) :
    (s.regsUpTo x)[k]? = some (s.reg (BitVec.ofNat 4 k)) := by
  simp [State.regsUpTo, Nat.lt_succ_of_le h]

/-! ### The input latch -/

/-- A whole byte names a key that is down exactly when the latch has that key and it is down (45_timers_keys.md R243). -/
theorem keyIsDown_iff (s : State) (b : Byte) : s.keyIsDown b = true ↔ s.keys[b.toNat]? = some true := by
  unfold State.keyIsDown
  split
  · next h => simp [h]
  · next h => simp [h]

/-- `lowestDown` is none when no key is down, and otherwise the least key that is (45_timers_keys.md R245). -/
theorem lowestDown_cases (s : State) :
    (s.lowestDown = none ∧ ∀ k : Fin 16, s.keys[k] = false) ∨
    (∃ k : Fin 16, s.lowestDown = some k ∧ s.keys[k] = true ∧ ∀ j < k, s.keys[j] = false) := by
  unfold State.lowestDown
  cases h : (List.finRange 16).find? (fun k => s.keys[k]) with
  | none =>
    rw [List.find?_eq_none] at h
    exact .inl ⟨rfl, fun k => by simpa using h k (List.mem_finRange k)⟩
  | some k =>
    refine .inr ⟨k, rfl, by simpa using List.find?_some h, fun j hjk => ?_⟩
    rw [List.find?_eq_some_iff_getElem] at h
    obtain ⟨-, i, hi, e, hj⟩ := h
    have hik : i = k.val := by simpa [Fin.ext_iff] using e
    simpa using hj j.val (by have := Fin.lt_def.mp hjk; omega)

/-! ### Sprite pixels (44_display.md R211 to R213) -/

/-- What writing a pixel leaves in every pixel. -/
theorem pixel_setPixel (fb : Vector (Vector Bool 32) 64) (px qx : Fin 64) (py qy : Fin 32) (b : Bool) :
    pixel (setPixel fb px py b) qx qy = if px = qx ∧ py = qy then b else pixel fb qx qy := by
  simp only [pixel, setPixel, Fin.getElem_fin, Vector.getElem_set]
  by_cases h : px = qx
  · subst h
    by_cases h2 : py = qy
    · subst h2; simp
    · have : ¬ py.val = qy.val := fun e => h2 (Fin.ext e)
      simp [h2, this]
  · have : ¬ px.val = qx.val := fun e => h (Fin.ext e)
    simp [h, this]

/-- A coordinate names the pixel that a sprite pixel there falls on. -/
theorem target_eq_some_iff (edge : SpriteEdge) (ox oy c r : Nat) (px : Fin 64) (py : Fin 32) :
    target edge (ox + c) (oy + r) = some (px, py) ↔ Lands edge ox oy c r px py := by
  cases edge
  · simp only [target, Lands]
    split
    · next h => simp [Fin.ext_iff, eq_comm]
    · next h =>
      simp only [reduceCtorEq, false_iff, not_and]
      intro h1 h2
      apply h
      omega
  · simp [target, Lands, Fin.ext_iff, eq_comm]

/-- What drawing one sprite pixel leaves in every pixel. -/
theorem pixel_drawPixel (edge : SpriteEdge) (tx ty : Nat) (bit : Bool) (c : Canvas) (qx : Fin 64) (qy : Fin 32) :
    pixel (drawPixel edge tx ty bit c).fb qx qy =
      if target edge tx ty = some (qx, qy) then pixel c.fb qx qy ^^ bit else pixel c.fb qx qy := by
  unfold drawPixel
  split
  · next h => simp [h]
  · next px py h =>
    rw [pixel_setPixel]
    by_cases e : px = qx ∧ py = qy
    · obtain ⟨rfl, rfl⟩ := e
      simp [h]
    · have : ¬(px, py) = (qx, qy) := fun e' => e (by simpa using e')
      simp [h, e]

end Sys2Proof.Machine
end

