-- ==== Sys2Proof/Laws/PerInstr.lean ====
section
/-! SUPPORT. The families of LAWS.json: for each, the statement about one instruction and one lemma per constructor. -/

/-- `encode i AND mask = match` for the instruction's own row of the opcode map (30_encoding.md R100). -/
def Sys2Proof.Laws.EncodesItsRow.Statement (i : Sys2Proof.Instr) : Prop := i.row.matches (Sys2Proof.encode i)

namespace Sys2Proof.Laws.EncodesItsRow

theorem packNNN_top (top : Nibble) (nnn : Addr12) : packNNN top nnn &&& 0xF000 = packNNN top 0 := by
  ext i h
  simp only [packNNN, BitVec.getElem_and, BitVec.getElem_or, BitVec.getElem_shiftLeft, BitVec.getElem_setWidth]
  interval_cases i <;> simp

theorem packXKK_top (top : Nibble) (x : RegIdx) (kk : Byte) : packXKK top x kk &&& 0xF000 = packNNN top 0 := by
  ext i h
  simp only [packXKK, packNNN, BitVec.getElem_and, BitVec.getElem_or, BitVec.getElem_shiftLeft, BitVec.getElem_setWidth]
  interval_cases i <;> simp

theorem packXKK_top_low (top : Nibble) (x : RegIdx) (kk : Byte) : packXKK top x kk &&& 0xF0FF = packXKK top 0 kk := by
  ext i h
  simp only [packXKK, BitVec.getElem_and, BitVec.getElem_or, BitVec.getElem_shiftLeft, BitVec.getElem_setWidth]
  interval_cases i <;> simp

theorem packXYN_top (top : Nibble) (x y : RegIdx) (n : Nibble) : packXYN top x y n &&& 0xF000 = packNNN top 0 := by
  ext i h
  simp only [packXYN, packNNN, BitVec.getElem_and, BitVec.getElem_or, BitVec.getElem_shiftLeft, BitVec.getElem_setWidth]
  interval_cases i <;> simp

theorem packXYN_top_low (top : Nibble) (x y : RegIdx) (n : Nibble) :
    packXYN top x y n &&& 0xF00F = packXYN top 0 0 n := by
  ext i h
  simp only [packXYN, BitVec.getElem_and, BitVec.getElem_or, BitVec.getElem_shiftLeft, BitVec.getElem_setWidth]
  interval_cases i <;> simp

theorem cls : Statement .cls := by unfold Statement; decide
theorem ret : Statement .ret := by unfold Statement; decide
theorem jp (nnn : Addr12) : Statement (.jp nnn) := packNNN_top 0x1 nnn
theorem call (nnn : Addr12) : Statement (.call nnn) := packNNN_top 0x2 nnn
theorem seImm (x : RegIdx) (kk : Byte) : Statement (.seImm x kk) := packXKK_top 0x3 x kk
theorem sneImm (x : RegIdx) (kk : Byte) : Statement (.sneImm x kk) := packXKK_top 0x4 x kk
theorem seReg (x y : RegIdx) : Statement (.seReg x y) := packXYN_top_low 0x5 x y 0x0
theorem ldImm (x : RegIdx) (kk : Byte) : Statement (.ldImm x kk) := packXKK_top 0x6 x kk
theorem addImm (x : RegIdx) (kk : Byte) : Statement (.addImm x kk) := packXKK_top 0x7 x kk
theorem ldReg (x y : RegIdx) : Statement (.ldReg x y) := packXYN_top_low 0x8 x y 0x0
theorem orReg (x y : RegIdx) : Statement (.orReg x y) := packXYN_top_low 0x8 x y 0x1
theorem andReg (x y : RegIdx) : Statement (.andReg x y) := packXYN_top_low 0x8 x y 0x2
theorem xorReg (x y : RegIdx) : Statement (.xorReg x y) := packXYN_top_low 0x8 x y 0x3
theorem addReg (x y : RegIdx) : Statement (.addReg x y) := packXYN_top_low 0x8 x y 0x4
theorem subReg (x y : RegIdx) : Statement (.subReg x y) := packXYN_top_low 0x8 x y 0x5
theorem shr (x y : RegIdx) : Statement (.shr x y) := packXYN_top_low 0x8 x y 0x6
theorem subn (x y : RegIdx) : Statement (.subn x y) := packXYN_top_low 0x8 x y 0x7
theorem shl (x y : RegIdx) : Statement (.shl x y) := packXYN_top_low 0x8 x y 0xE
theorem sneReg (x y : RegIdx) : Statement (.sneReg x y) := packXYN_top_low 0x9 x y 0x0
theorem ldI (nnn : Addr12) : Statement (.ldI nnn) := packNNN_top 0xA nnn
theorem jpV0 (nnn : Addr12) : Statement (.jpV0 nnn) := packNNN_top 0xB nnn
theorem rnd (x : RegIdx) (kk : Byte) : Statement (.rnd x kk) := packXKK_top 0xC x kk
theorem drw (x y : RegIdx) (n : Nibble) : Statement (.drw x y n) := packXYN_top 0xD x y n
theorem skp (x : RegIdx) : Statement (.skp x) := packXKK_top_low 0xE x 0x9E
theorem sknp (x : RegIdx) : Statement (.sknp x) := packXKK_top_low 0xE x 0xA1
theorem ldVxDT (x : RegIdx) : Statement (.ldVxDT x) := packXKK_top_low 0xF x 0x07
theorem ldVxK (x : RegIdx) : Statement (.ldVxK x) := packXKK_top_low 0xF x 0x0A
theorem ldDT (x : RegIdx) : Statement (.ldDT x) := packXKK_top_low 0xF x 0x15
theorem ldST (x : RegIdx) : Statement (.ldST x) := packXKK_top_low 0xF x 0x18
theorem addI (x : RegIdx) : Statement (.addI x) := packXKK_top_low 0xF x 0x1E
theorem ldF (x : RegIdx) : Statement (.ldF x) := packXKK_top_low 0xF x 0x29
theorem ldB (x : RegIdx) : Statement (.ldB x) := packXKK_top_low 0xF x 0x33
theorem storeRegs (x : RegIdx) : Statement (.storeRegs x) := packXKK_top_low 0xF x 0x55
theorem loadRegs (x : RegIdx) : Statement (.loadRegs x) := packXKK_top_low 0xF x 0x65

end Sys2Proof.Laws.EncodesItsRow
end

