-- ==== Sys2Proof/Laws/Step.lean ====
section
/-! SUPPORT. What a cycle and a step can do, said once. -/

namespace Sys2Proof.Machine

/-- The fetch reads two bytes exactly when both addresses exist (40_cycle.md R121). -/
theorem fetch_eq_some {s : State} (h : s.pc.toNat ≤ 0x0FFE) :
    s.fetch = some (wordOf (s.byteAt s.pc.toNat) (s.byteAt (s.pc.toNat + 1))) := by
  simp [State.fetch, h, State.wordAt]

theorem fetch_eq_none {s : State} (h : 0x0FFE < s.pc.toNat) : s.fetch = none := by
  simp [State.fetch, Nat.not_le.mpr h]

/-- A cycle raises `PcOutOfRange`, raises `DecodeError`, or runs the decoded instruction (60_exceptions.md R265). -/
theorem cycle_cases (s : State) :
    (0x0FFE < s.pc.toNat ∧ cycle s = .next (s.raise .pcOutOfRange 0 0)) ∨
    (∃ op why, s.fetch = some op ∧ decode op = .illegal why ∧ cycle s = .next (s.raise .decodeError op 0)) ∨
    (∃ op i, s.fetch = some op ∧ decode op = .instr i ∧ cycle s = exec i s) := by
  by_cases hpc : s.pc.toNat ≤ 0x0FFE
  · right
    have hf := fetch_eq_some hpc
    cases hd : decode (wordOf (s.byteAt s.pc.toNat) (s.byteAt (s.pc.toNat + 1))) with
    | illegal why => exact .inl ⟨_, why, hf, hd, by simp [cycle, hf, hd]⟩
    | instr i => exact .inr ⟨_, i, hf, hd, by simp [cycle, hf, hd]⟩
  · have hpc := Nat.not_le.mp hpc
    exact .inl ⟨hpc, by simp [cycle, fetch_eq_none hpc]⟩

/-- With no event listed a step is a free-running Cycle, if one is enabled (40_cycle.md R126). -/
theorem step_of_no_event {s : State} (h : s.events = []) : step s = if s.cycleEnabled then cycle s else .next s := by
  simp [step, nextEvent, h, perform]

/-- With an event listed a step performs it (20_memory.md R71). -/
theorem step_of_event {s : State} {e : Event} {es : List Event} (h : s.events = e :: es) :
    step s = perform e { s with events := es } := by
  simp [step, nextEvent, h]

/-- Every step performs one event, at the state without it. -/
theorem step_performs (s : State) :
    (s.events = [] ∧ step s = perform .cycle s) ∨
    (∃ e es, s.events = e :: es ∧ step s = perform e { s with events := es }) := by
  cases h : s.events with
  | nil => exact .inl ⟨rfl, by simp [step, nextEvent, h]⟩
  | cons e es => exact .inr ⟨e, es, rfl, step_of_event h⟩

/-- A step that begins a Cycle performs it, whichever of the three ways it begins (40_cycle.md R126, 60_exceptions.md
R292). -/
theorem step_of_beginsCycle {s s' : State} (h : BeginsCycle s s') : step s = cycle s' := by
  obtain ⟨ha, hh, ⟨he, rfl, hp⟩ | ⟨es, he, hs, hp⟩ | ⟨es, he, hs⟩⟩ := h
  · rw [step_of_no_event he, if_pos (by simp [State.cycleEnabled, ha, hh, hp])]
  · rw [step_of_event he, ← hs, perform, if_pos (by simp [State.cycleEnabled, ha, hh, hp])]
  · rw [step_of_event he, ← hs, perform, if_pos (by simp [State.stepEnabled, ha, hh])]

/-- `withFetchWord` leaves exactly the word as the next thing a step runs, from a state whose memory is canonical. -/
theorem fetch_placeWord {s : State} (hm : s.mem.wf s.params.font) (op : Word) : (s.placeWord op).fetch = some op := by
  have key : ∀ a : Nat, a ≤ 0x0FFE → (s.storeBytes a [highByte op, lowByte op]).wordAt a = op := by
    intro a ha
    rw [State.wordAt, byteAt_storeBytes hm (by simp; omega), byteAt_storeBytes hm (by simp; omega)]
    simp
  have hp : (if s.pc.toNat ≤ 0x0FFE then s.pc else (0x0200 : Word)).toNat ≤ 0x0FFE := by
    split
    · assumption
    · decide
  exact (if_pos hp).trans (congrArg some (key _ hp))

end Sys2Proof.Machine
end

