-- ==== Sys2Proof/Tests/Slice0.lean ====
section
/-! SUPPORT. Tests on fixed values, their expected results written out from 95_test_vectors.md (the vector's id stands with
each), and a witness for the hypotheses of every obligation that has some. -/

namespace Sys2Proof.Tests

open Sys2Proof Sys2Proof.Machine

/-! ### Helpers -/

/-- Alive and loaded with an empty ROM, the parameters named: the start state of 95_test_vectors.md. -/
def ready : State :=
  { State.reset with
    loaded := true
    alive := true
    lastRom := some []
    params := { shiftSource := .vxInPlace, spriteEdge := .clip, tickWhenPaused := true, font := Config.font } }

/-- Some registers given. -/
def withRegs (s : State) (rs : List (RegIdx × Byte)) : State := rs.foldl (fun s p => s.setReg p.1 p.2) s

/-- A part of the state after one step that runs a word at PC; none if the step gives no next state. -/
def after {α : Type} (s : State) (op : Word) (f : State → α) : Option α :=
  match step (s.withFetchWord 16 op.toNat) with
  | .next t => some (f t)
  | .fault _ => none
  | .refused _ => none

/-- A part of the state after one event. -/
def afterEvent {α : Type} (s : State) (e : Event) (f : State → α) : Option α :=
  match step { s with events := [e] } with
  | .next t => some (f t)
  | .fault _ => none
  | .refused _ => none

/-! ### WellFormed: each check refuses an ill-formed term -/

theorem test_rom_of_3585_bytes_is_refused : ¬ romFits (List.replicate 3585 0x00) := by
  unfold romFits
  rw [List.length_replicate]
  decide

theorem test_rom_of_3584_bytes_fits : romFits (List.replicate 3584 0x00) := by
  unfold romFits
  rw [List.length_replicate]
  decide

/-- Every operand field has exactly the values its type has (30_encoding.md R92): no term of `Instr` is ill-formed, and the
words that no term stands for are refused by the decoder, each by name. -/
theorem test_illegal_words_are_refused_by_name :
    [0x0000, 0x00E1, 0x5121, 0x8128, 0x9121, 0xE19F, 0xF130].map decode =
      [.illegal .top0, .illegal .top0, .illegal .top5, .illegal .top8, .illegal .top9, .illegal .topE,
        .illegal .topF] := by decide

/-! ### Decode: a word for every constructor, its bits written out as 30_encoding.md R100 lays them -/

theorem test_decode_screen_and_flow :
    [0b0000000011100000, 0b0000000011101110, 0b0001101010111100, 0b0010001000010000, 0b1011101010111100].map decode =
      [.instr .cls, .instr .ret, .instr (.jp 0xABC), .instr (.call 0x210), .instr (.jpV0 0xABC)] := by decide

theorem test_decode_skips :
    [0b0011111110101011, 0b0100001000000110, 0b0101000100100000, 0b1001000100100000, 0b1110000110011110,
        0b1110000110100001].map decode =
      [.instr (.seImm 0xF 0xAB), .instr (.sneImm 2 0x06), .instr (.seReg 1 2), .instr (.sneReg 1 2),
        .instr (.skp 1), .instr (.sknp 1)] := by decide

theorem test_decode_loads_and_logic :
    [0b0110101000111100, 0b0111000100000010, 0b1000000100100000, 0b1000000100100001, 0b1000000100100010,
        0b1000000100100011, 0b1100001100001111].map decode =
      [.instr (.ldImm 0xA 0x3C), .instr (.addImm 1 0x02), .instr (.ldReg 1 2), .instr (.orReg 1 2),
        .instr (.andReg 1 2), .instr (.xorReg 1 2), .instr (.rnd 3 0x0F)] := by decide

theorem test_decode_arithmetic_and_shifts :
    [0b1000000100100100, 0b1000000100100101, 0b1000000100100110, 0b1000000100100111, 0b1000000100101110].map decode =
      [.instr (.addReg 1 2), .instr (.subReg 1 2), .instr (.shr 1 2), .instr (.subn 1 2), .instr (.shl 1 2)] := by
  decide

theorem test_decode_index_memory_display :
    [0b1010001100000000, 0b1111001000011110, 0b1111101000101001, 0b1111000000110011, 0b1111001001010101,
        0b1111001101100101, 0b1101000100101111].map decode =
      [.instr (.ldI 0x300), .instr (.addI 2), .instr (.ldF 0xA), .instr (.ldB 0), .instr (.storeRegs 2),
        .instr (.loadRegs 3), .instr (.drw 1 2 0xF)] := by decide

theorem test_decode_timers_and_keys :
    [0b1111001100000111, 0b1111001000001010, 0b1111000000010101, 0b1111000000011000].map decode =
      [.instr (.ldVxDT 3), .instr (.ldVxK 2), .instr (.ldDT 0), .instr (.ldST 0)] := by decide

/-- 20_memory.md R61 and S1: the high byte lies at the lower address. -/
theorem test_fetch_is_big_endian :
    ({ ready with mem := ⟨[(0x200, 0x12), (0x201, 0x34)]⟩ } : State).fetch = some 0x1234 := by decide

theorem test_table_word_reaches_the_decoder :
    decodeTableWord 16 0xD12F = some (.drw 1 2 0xF) ∧ decodeTableWord 16 0x0123 = none := by decide

/-! ### Control flow (95_test_vectors.md 2.2) -/

/-- F1, F2 -/
theorem test_jp : after ready 0x1ABC (·.pc) = some 0x0ABC ∧ after ready 0x1203 (·.pc) = some 0x0203 := by decide

/-- F5 -/
theorem test_jpV0 : after (withRegs ready [(0, 0xFF)]) 0xBFFF (·.pc) = some 0x10FE := by decide

/-- F6 -/
theorem test_call : after ready 0x2210 (fun t => (t.stack[0], t.sp, t.pc)) = some (0x0202, 1, 0x0210) := by decide

/-- X6 -/
theorem test_call_with_a_full_stack :
    after { ready with sp := 16 } 0x2200 (fun t => (t.halted, t.haltCause, t.haltPC, t.haltOpcode, t.sp, t.pc)) =
      some (true, .stackOverflow, 0x0200, 0x2200, 16, 0x0200) := by decide

/-- F7 -/
theorem test_ret :
    after { ready with pc := 0x0216, sp := 1, stack := ready.stack.set 0 0x020A } 0x00EE
      (fun t => (t.sp, t.pc, t.stack[0])) = some (0, 0x020A, 0x020A) := by decide

/-- X1 -/
theorem test_ret_with_an_empty_stack :
    after ready 0x00EE (fun t => (t.halted, t.haltCause, t.haltPC, t.haltOpcode, t.haltAddr)) =
      some (true, .stackUnderflow, 0x0200, 0x00EE, 0) := by decide

/-- F8, F9 -/
theorem test_seImm : after ready 0x3100 (·.pc) = some 0x0204 ∧
    after (withRegs ready [(1, 1)]) 0x3100 (·.pc) = some 0x0202 := by decide

/-- F11, F12 -/
theorem test_sneImm : after (withRegs ready [(2, 5)]) 0x4206 (·.pc) = some 0x0204 ∧
    after (withRegs ready [(2, 5)]) 0x4205 (·.pc) = some 0x0202 := by decide

/-- F13, F14 -/
theorem test_seReg : after (withRegs ready [(3, 0x7F), (4, 0x7F)]) 0x5340 (·.pc) = some 0x0204 ∧
    after (withRegs ready [(3, 1), (4, 2)]) 0x5340 (·.pc) = some 0x0202 := by decide

/-- F16, F17 -/
theorem test_sneReg : after (withRegs ready [(3, 1), (4, 2)]) 0x9340 (·.pc) = some 0x0204 ∧
    after (withRegs ready [(3, 9)]) 0x9330 (·.pc) = some 0x0202 := by decide

/-! ### Load, arithmetic, logic, shifts (2.3, 2.4) -/

/-- A1, A2 -/
theorem test_ldImm : after ready 0x6A3C (fun t => (t.reg 0xA, t.pc)) = some (0x3C, 0x0202) ∧
    after (withRegs ready [(0xF, 1)]) 0x6F00 (·.reg 0xF) = some 0x00 := by decide

/-- A3, A5 -/
theorem test_addImm : after (withRegs ready [(1, 0xFF)]) 0x7102 (fun t => (t.reg 1, t.reg 0xF)) = some (0x01, 0) ∧
    after (withRegs ready [(0xF, 0xFF)]) 0x7F01 (·.reg 0xF) = some 0x00 := by decide

/-- A6 -/
theorem test_ldReg : after (withRegs ready [(2, 0x55), (0xF, 7)]) 0x8120 (fun t => (t.reg 1, t.reg 2, t.reg 0xF)) =
    some (0x55, 0x55, 7) := by decide

/-- A20, A24 -/
theorem test_orReg :
    after (withRegs ready [(1, 0xF0), (2, 0x0F), (0xF, 1)]) 0x8121 (fun t => (t.reg 1, t.reg 0xF)) = some (0xFF, 0) ∧
    after (withRegs ready [(0xF, 0xAA), (2, 0x55)]) 0x8F21 (fun t => (t.reg 2, t.reg 0xF)) = some (0x55, 0) := by
  decide

/-- A21, A25 -/
theorem test_andReg :
    after (withRegs ready [(1, 0xF3), (2, 0x3C), (0xF, 1)]) 0x8122 (fun t => (t.reg 1, t.reg 0xF)) = some (0x30, 0) ∧
    after (withRegs ready [(1, 0xFF), (0xF, 1)]) 0x81F2 (fun t => (t.reg 1, t.reg 0xF)) = some (0x01, 0) := by decide

/-- A22 -/
theorem test_xorReg :
    after (withRegs ready [(1, 0xFF), (2, 0x0F), (0xF, 1)]) 0x8123 (fun t => (t.reg 1, t.reg 0xF)) =
      some (0xF0, 0) := by decide

/-- A7, A11 -/
theorem test_addReg :
    after (withRegs ready [(1, 0xFA), (2, 0x0A)]) 0x8124 (fun t => (t.reg 1, t.reg 0xF)) = some (0x04, 1) ∧
    after (withRegs ready [(1, 0x80), (2, 0x7F)]) 0x8124 (fun t => (t.reg 1, t.reg 0xF)) = some (0xFF, 0) := by decide

/-- A13, A14 -/
theorem test_addReg_vf :
    after (withRegs ready [(0xF, 0xF0), (1, 0x20)]) 0x8F14 (fun t => (t.reg 1, t.reg 0xF)) = some (0x20, 0x10) ∧
    after (withRegs ready [(1, 0xFF), (0xF, 1)]) 0x81F4 (fun t => (t.reg 1, t.reg 0xF)) = some (0x00, 1) := by decide

/-- A15, A17 -/
theorem test_subReg :
    after (withRegs ready [(1, 5), (2, 10)]) 0x8125 (fun t => (t.reg 1, t.reg 0xF)) = some (0xFB, 0) ∧
    after (withRegs ready [(1, 7), (2, 7)]) 0x8125 (fun t => (t.reg 1, t.reg 0xF)) = some (0x00, 1) := by decide

/-- A26, A27 -/
theorem test_subn :
    after (withRegs ready [(1, 5), (2, 10)]) 0x8127 (fun t => (t.reg 1, t.reg 0xF)) = some (0x05, 1) ∧
    after (withRegs ready [(1, 10), (2, 5)]) 0x8127 (fun t => (t.reg 1, t.reg 0xF)) = some (0xFB, 0) := by decide

/-- H1, both settings -/
theorem test_shr :
    after (withRegs ready [(1, 0x05), (2, 0xF0)]) 0x8126 (fun t => (t.reg 1, t.reg 0xF, t.reg 2)) =
      some (0x02, 1, 0xF0) ∧
    after (withRegs { ready with params := { ready.params with shiftSource := .vyCopy } } [(1, 0x05), (2, 0xF0)]) 0x8126
      (fun t => (t.reg 1, t.reg 0xF, t.reg 2)) = some (0x78, 0, 0xF0) := by decide

/-- H7, both settings -/
theorem test_shr_vf :
    after (withRegs ready [(0xF, 0x03), (2, 0x04)]) 0x8F26 (·.reg 0xF) = some 0x01 ∧
    after (withRegs { ready with params := { ready.params with shiftSource := .vyCopy } } [(0xF, 0x03), (2, 0x04)]) 0x8F26
      (·.reg 0xF) = some 0x02 := by decide

/-- H2, both settings -/
theorem test_shl :
    after (withRegs ready [(1, 0x81), (2, 0x40)]) 0x812E (fun t => (t.reg 1, t.reg 0xF)) = some (0x02, 1) ∧
    after (withRegs { ready with params := { ready.params with shiftSource := .vyCopy } } [(1, 0x81), (2, 0x40)]) 0x812E
      (fun t => (t.reg 1, t.reg 0xF)) = some (0x80, 0) := by decide

/-- A30: whatever byte is drawn -/
theorem test_rnd : after ready 0xC300 (fun t => (t.draws, t.pc)) = some (1, 0x0202) := by decide

/-! ### Index and memory (2.5) -/

/-- M1 -/
theorem test_ldI : after ready 0xA300 (·.i) = some 0x0300 := by decide

/-- M2, M3 -/
theorem test_addI :
    after (withRegs { ready with i := 0x0FFF } [(2, 2)]) 0xF21E (fun t => (t.i, t.reg 0xF)) = some (0x1001, 0) ∧
    after (withRegs { ready with i := 0xFFFF } [(2, 2)]) 0xF21E (fun t => (t.i, t.reg 0xF)) = some (0x0001, 0) := by
  decide

/-- M4, M5 -/
theorem test_ldF : after (withRegs ready [(0xA, 7)]) 0xFA29 (·.i) = some 0x0023 ∧
    after (withRegs ready [(0, 0x0F)]) 0xF029 (·.i) = some 0x004B ∧
    after (withRegs ready [(0, 0x10)]) 0xF029 (fun t => (t.draws, t.pc)) = some (1, 0x0202) := by decide

/-- M6 -/
theorem test_ldB : after (withRegs { ready with i := 0x0300 } [(0, 254)]) 0xF033
    (fun t => (t.bytesAt 0x300 3, t.i)) = some ([2, 5, 4], 0x0300) := by decide

/-- X11 -/
theorem test_ldB_out_of_range : after (withRegs { ready with i := 0x0FFE } [(0, 0xFF)]) 0xF033
    (fun t => (t.haltCause, t.haltAddr, t.bytesAt 0xFFE 2)) = some (.memOutOfRange, 0x1000, [0, 0]) := by decide

/-- M11 -/
theorem test_storeRegs :
    after (withRegs { ready with i := 0x0400 } [(0, 0x11), (1, 0x22), (2, 0x33), (3, 0x44)]) 0xF255
      (fun t => (t.bytesAt 0x400 4, t.i)) = some ([0x11, 0x22, 0x33, 0x00], 0x0403) := by decide

/-- M12 -/
theorem test_storeRegs_over_the_font : after (withRegs ready [(0, 0xAB)]) 0xF055
    (fun t => (t.bytesAt 0 2, t.i)) = some ([0xAB, 0x90], 0x0001) := by decide

/-- M14 -/
theorem test_loadRegs : after ready 0xFF65 (fun t => (t.v.toList, t.i)) =
    some ([0xF0, 0x90, 0x90, 0x90, 0xF0, 0x20, 0x60, 0x20, 0x20, 0x70, 0xF0, 0x10, 0xF0, 0x80, 0xF0, 0xF0], 0x0010) := by
  decide

/-- X14 -/
theorem test_loadRegs_out_of_range : after { ready with i := 0x1000 } 0xF065
    (fun t => (t.haltCause, t.haltAddr, t.i, t.reg 0)) = some (.memOutOfRange, 0x1000, 0x1000, 0) := by decide

/-! ### Display (2.6) -/

/-- Y13 -/
theorem test_cls :
    after { ready with fb := setPixel ready.fb 6 8 true, frameDirty := false, drewThisCycle := true } 0x00E0
      (fun t => (pixel t.fb 6 8, t.frameDirty, t.drewThisCycle)) = some (false, true, false) := by decide

/-- Y3 with V0 = 62: one row of eight 1 bits at the right edge, under both policies -/
theorem test_drw_at_the_edge :
    let s := withRegs { ready with i := 0x0300, mem := ⟨[(0x300, 0xFF)]⟩ } [(0, 62)]
    let lit : State → List Bool := fun t => [pixel t.fb 61 0, pixel t.fb 62 0, pixel t.fb 63 0, pixel t.fb 0 0, pixel t.fb 5 0, pixel t.fb 6 0]
    after s 0xD011 (fun t => (lit t, t.reg 0xF)) = some ([false, true, true, false, false, false], 0) ∧
    after { s with params := { s.params with spriteEdge := .wrap } } 0xD011 (fun t => (lit t, t.reg 0xF)) =
      some ([false, true, true, true, true, false], 0) := by decide

/-- S6, the second draw: the pixel at the origin goes out and VF reports the collision -/
theorem test_drw_collision :
    after { ready with i := 0x0300, mem := ⟨[(0x300, 0x80)]⟩, fb := setPixel ready.fb 0 0 true } 0xD001
      (fun t => (pixel t.fb 0 0, t.reg 0xF, t.frameDirty, t.drewThisCycle, t.pc)) =
      some (false, 1, true, true, 0x0202) := by decide

/-- Y14 -/
theorem test_getPixel :
    afterEvent { ready with fb := setPixel ready.fb 6 8 true } (.getPixel 70 40) (·.outputs) = some [.bit false] ∧
    afterEvent { ready with fb := setPixel ready.fb 6 8 true, params := { ready.params with spriteEdge := .wrap } }
      (.getPixel 70 40) (·.outputs) = some [.bit true] := by decide

/-! ### Timers and keys (2.7) -/

/-- K1 -/
theorem test_ldVxDT : after { ready with dt := 0x2A } 0xF307 (·.reg 3) = some 0x2A := by decide

/-- K2 -/
theorem test_ldDT : after (withRegs ready [(0, 3)]) 0xF015 (·.dt) = some 3 := by decide

/-- K4: 0 to 1 beeps, 1 to 1 does not -/
theorem test_ldST : after (withRegs ready [(0, 1)]) 0xF018 (fun t => (t.st, t.outputs)) = some (1, [.beep]) ∧
    after (withRegs { ready with st := 1 } [(0, 1)]) 0xF018 (fun t => (t.st, t.outputs)) = some (1, []) := by decide

/-- K7, K9 -/
theorem test_skp : after (withRegs { ready with keys := ready.keys.set 5 true } [(0, 5)]) 0xE09E (·.pc) = some 0x0204 ∧
    after (withRegs { ready with keys := ready.keys.set 5 true } [(0, 0x15)]) 0xE09E (·.pc) = some 0x0202 := by decide

/-- K8, K9 -/
theorem test_sknp : after (withRegs ready [(0, 5)]) 0xE0A1 (·.pc) = some 0x0204 ∧
    after (withRegs { ready with keys := ready.keys.set 5 true } [(0, 0x15)]) 0xE0A1 (·.pc) = some 0x0204 := by decide

/-- K10 -/
theorem test_ldVxK : after { ready with keys := (ready.keys.set 0xB true).set 0xE true } 0xF20A
    (fun t => (t.reg 2, t.pc, t.waitKey, t.keys[0xB])) = some (0x0B, 0x0202, false, true) := by decide

/-- K12 -/
theorem test_ldVxK_waits : after ready 0xF20A (fun t => (t.reg 2, t.pc, t.waitKey)) = some (0, 0x0200, true) := by
  decide

/-- K3, K5, K6 -/
theorem test_tick :
    afterEvent { ready with st := 2, dt := 9 } .tick (fun t => (t.st, t.dt, t.outputs)) = some (1, 8, [.beep]) ∧
    afterEvent { ready with st := 1 } .tick (fun t => (t.st, t.dt, t.outputs)) = some (0, 0, []) := by decide

/-! ### Faults, reset, load and run flags (2.8, 2.9) -/

/-- X3 -/
theorem test_illegal_word : after ready 0x0123 (fun t => (t.halted, t.haltCause, t.haltPC, t.haltOpcode, t.pc)) =
    some (true, .decodeError, 0x0200, 0x0123, 0x0200) := by decide

/-- X7 -/
theorem test_fetch_beyond_memory :
    afterEvent { ready with pc := 0x0FFF } .cycle (fun t => (t.haltCause, t.haltPC, t.haltOpcode)) =
      some (.pcOutOfRange, 0x0FFF, 0x0000) := by decide

/-- L4 -/
theorem test_load :
    afterEvent State.reset (.load [0x12, 0x00, 0x34])
      (fun t => (t.bytesAt 0x200 4, t.programSize, t.loaded, t.view, t.outputs)) =
      some ([0x12, 0x00, 0x34, 0x00], 3, true, .idle, [.loadOk]) := by decide

/-- R8, R321: with another `FONT` the font region reads as that font after a reset, whatever was stored over it. -/
theorem test_reset_installs_the_font_of_the_machine :
    afterEvent { withRegs ready [(0, 0xAB)] with
        params := { ready.params with font := Vector.replicate 80 0x11 }, mem := ⟨[(0x000, 0xAB)]⟩ } .reset
      (fun t => (t.bytesAt 0x000 2, t.bytesAt 0x04F 2)) = some ([0x11, 0x11], [0x11, 0x00]) := by decide

/-- L2 -/
theorem test_start_needs_a_program : afterEvent State.reset .start (fun t => (t.alive, t.view)) = some (false, .idle) := by
  decide

/-- L6 -/
theorem test_reset_keeps_the_latch :
    afterEvent { withRegs ready [(3, 7)] with dt := 9, keys := ready.keys.set 4 true } .reset
      (fun t => (t.reg 3, t.dt, t.alive, t.loaded, t.keys[4])) = some (0, 0, false, false, true) := by decide

/-! ### Witnesses: for each obligation with hypotheses, states and operands that meet them, at the boundaries -/

/-- A state with one listed event. -/
def given (e : Event) (s : State) : State := { s with events := [e] }

/-- `ready` after a fault, alive still. -/
def stopped : State := ready.raise .decodeError 0x0123 0

theorem witness_EncodeOfTheDecodedIsTheWord : decode 0xFF65 = .instr (.loadRegs 0xF) := by decide

theorem witness_StepRunsTheDecodedInstruction :
    let s := (withRegs { ready with pc := 0x0FFE } []).withFetchWord 16 0x6A3C
    s.events = [] ∧ s.alive = true ∧ s.halted = false ∧ s.paused = false ∧ s.pc.toNat ≤ 0x0FFE ∧
      decode (wordOf (s.byteAt s.pc.toNat) (s.byteAt (s.pc.toNat + 1))) = .instr (.ldImm 0xA 0x3C) := by decide

theorem witness_StepPortRunsACycleEvenWhenPaused :
    let s := { ready.withFetchWord 16 0x00E0 with paused := true }
    (given .step s).events = [.step] ∧ true = ((given .step s).alive && !(given .step s).halted) ∧
      s.pc.toNat ≤ 0x0FFE ∧ decode (wordOf (s.byteAt s.pc.toNat) (s.byteAt (s.pc.toNat + 1))) = .instr .cls ∧
      false = ((given .step stopped).alive && !(given .step stopped).halted) ∧
      (given .cycle s).events = [.cycle] ∧ false = (s.alive && !s.halted && !s.paused) ∧
      true = (s.resume.alive && !s.resume.halted && !s.resume.paused) := by decide

theorem witness_NothingRunsUnlessACycleIsEnabled :
    (State.reset.events = [] ∧ State.reset.alive = false) ∧ (stopped.events = [] ∧ stopped.halted = true) ∧
      (ready.pause.events = [] ∧ ready.pause.paused = true) := by decide

/-- A free-running Cycle, unlisted and listed, and a `step()` of a paused core, at the lowest PC that cannot be fetched. -/
theorem witness_FetchBeyondMemoryHalts :
    let s := { ready with pc := 0x0FFF }
    BeginsCycle s s ∧ BeginsCycle (given .cycle s) s ∧ BeginsCycle (given .step s.pause) s.pause ∧
      s.pc.toNat > 0x0FFE ∧ s.pause.pc.toNat > 0x0FFE := by
  exact ⟨⟨rfl, rfl, .inl ⟨rfl, rfl, rfl⟩⟩, ⟨rfl, rfl, .inr (.inl ⟨[], rfl, rfl, rfl⟩)⟩,
    ⟨rfl, rfl, .inr (.inr ⟨[], rfl, rfl⟩)⟩, by decide, by decide⟩

/-- The same three, at the last address a word can be fetched from. -/
theorem witness_IllegalWordHalts :
    let s := { ready with pc := 0x0FFE }
    BeginsCycle s s ∧ BeginsCycle (given .cycle s) s ∧ BeginsCycle (given .step s.pause) s.pause ∧
      s.pc.toNat ≤ 0x0FFE ∧ 0x0000 = wordOf (s.byteAt s.pc.toNat) (s.byteAt (s.pc.toNat + 1)) ∧
      decode 0x0000 = .illegal .top0 := by
  exact ⟨⟨rfl, rfl, .inl ⟨rfl, rfl, rfl⟩⟩, ⟨rfl, rfl, .inr (.inl ⟨[], rfl, rfl, rfl⟩)⟩,
    ⟨rfl, rfl, .inr (.inr ⟨[], rfl, rfl⟩)⟩, by decide, by decide, by decide⟩

theorem witness_CallPushesTheReturnAddress :
    ({ ready with sp := 15 } : State).sp.toNat < 16 ∧ ({ ready with sp := 16 } : State).sp.toNat ≥ 16 := by decide

theorem witness_ReturnPopsThePc :
    (let s := { ready with sp := 16 }; s.sp.toNat ≤ 16 ∧ s.sp.toNat > 0) ∧
      (ready.sp.toNat ≤ 16 ∧ ready.sp.toNat = 0) := by decide

theorem witness_ReturnStopsOnAnIllegalSp : ({ ready with sp := 17 } : State).sp.toNat > 16 := by decide

theorem witness_PcAfterEveryCycle :
    (ready.halted = false ∧ ready.sp.toNat ≤ 16 ∧ ∃ t, exec (.jp 0xABC) ready = .next t ∧ t.halted = false) ∧
      (ready.halted = false ∧ ready.sp.toNat ≤ 16 ∧ ∃ t, exec .ret ready = .next t ∧ t.halted = true) := by
  exact ⟨⟨by decide, by decide, _, rfl, by decide⟩, ⟨by decide, by decide, _, rfl, by decide⟩⟩

theorem witness_ShiftsFollowTheShiftSource :
    let s := withRegs ready [(1, 0x05), (2, 0xF0)]
    let s' := { s with params := { s.params with shiftSource := .vyCopy } }
    ((s.params.shiftSource = .vxInPlace → 0x05 = s.reg 1) ∧ (s.params.shiftSource = .vyCopy → 0x05 = s.reg 2)) ∧
      ((s'.params.shiftSource = .vxInPlace → 0xF0 = s'.reg 1) ∧
        (s'.params.shiftSource = .vyCopy → 0xF0 = s'.reg 2)) := by decide

/-- 60FF: no flag is written, VF is not named, and V1 is not named. -/
theorem witness_RegistersChangeOnlyAsNamed :
    (∃ t, exec (.ldImm 0 0xFF) ready = .next t) ∧ writesFlag (.ldImm 0 0xFF) = false ∧
      namesDestination 0xF (.ldImm 0 0xFF) = false ∧ namesDestination 1 (.ldImm 0 0xFF) = false := by
  exact ⟨⟨_, rfl⟩, by decide⟩

theorem witness_FontPointerOrDraw :
    ((withRegs ready [(0, 0x0F)]).reg 0).toNat ≤ 0x0F ∧ ((withRegs ready [(0, 0x10)]).reg 0).toNat > 0x0F := by decide

theorem witness_DecimalDigitsAreStored :
    ready.mem.wf ready.params.font ∧ ({ ready with i := 0x0FFD } : State).i.toNat + 2 ≤ 0x0FFF ∧
      ({ ready with i := 0x0FFE } : State).i.toNat + 2 > 0x0FFF := by decide

theorem witness_RegistersAreStored :
    ready.mem.wf ready.params.font ∧ ({ ready with i := 0x0FF0 } : State).i.toNat + (0xF : RegIdx).toNat ≤ 0x0FFF ∧
      ({ ready with i := 0x0FF1 } : State).i.toNat + (0xF : RegIdx).toNat > 0x0FFF := by decide

theorem witness_RegistersAreLoaded :
    ({ ready with i := 0x0FFF } : State).i.toNat + (0 : RegIdx).toNat ≤ 0x0FFF ∧
      ({ ready with i := 0x1000 } : State).i.toNat + (0 : RegIdx).toNat > 0x0FFF := by decide

/-- Stores that end at 0x0FFF, fetched from the last address, from inside the range, and from just below it; and an FX55 of
one register. -/
theorem witness_StoresAreSeenByTheNextFetch :
    let s := { ready with i := 0x0FFD }
    let s' := { ready with i := 0x0FFF }
    s.mem.wf s.params.font ∧ 0x0FFE ≤ 0x0FFE ∧ s.i.toNat + 2 ≤ 0x0FFF ∧ (∃ t, exec (.ldB 0) s = .next t) ∧
      s.i.toNat + (2 : RegIdx).toNat ≤ 0x0FFF ∧ (∃ t, exec (.storeRegs 2) s = .next t) ∧
      s'.i.toNat + (0 : RegIdx).toNat ≤ 0x0FFF ∧ ∃ t, exec (.storeRegs 0) s' = .next t := by
  exact ⟨by decide, by decide, by decide, ⟨_, rfl⟩, by decide, ⟨_, rfl⟩, by decide, _, rfl⟩

/-- 00E0 completes and is none of the instructions that write memory, I, SP, the stack, the timers, `WaitKey` or the draws;
6000 writes no pixel. -/
theorem witness_OnlyNamedInstructionsWriteEachPart :
    (∃ t, exec .cls ready = .next t ∧ t.halted = false) ∧ (∃ t, exec (.ldImm 0 0) ready = .next t) ∧
      (∀ x, Instr.cls ≠ .ldB x) ∧ (∀ x, Instr.cls ≠ .storeRegs x) ∧ (∀ x, Instr.cls ≠ .loadRegs x) ∧
      (∀ nnn, Instr.cls ≠ .ldI nnn) ∧ (∀ x, Instr.cls ≠ .addI x) ∧ (∀ x, Instr.cls ≠ .ldF x) ∧
      Instr.cls ≠ .ret ∧ (∀ nnn, Instr.cls ≠ .call nnn) ∧ (∀ x kk, Instr.cls ≠ .rnd x kk) ∧
      (∀ x, Instr.cls ≠ .ldDT x) ∧ (∀ x, Instr.cls ≠ .ldST x) ∧ (∀ x, Instr.cls ≠ .ldVxK x) ∧
      Instr.ldImm 0 0 ≠ .cls ∧ (∀ x y n, Instr.ldImm 0 0 ≠ .drw x y n) := by
  refine ⟨⟨_, rfl, rfl⟩, ⟨_, rfl⟩, ?_⟩
  simp

/-- n = 0 with I beyond memory, n = 1 at 0x0FFF, n = 1 at 0x1000; and a pixel hit, lit or not. -/
theorem witness_DrawXorsTheSprite :
    ((0 : Nibble).toNat = 0) ∧ (({ ready with i := 0x0FFF } : State).i.toNat + (1 : Nibble).toNat - 1 ≤ 0x0FFF) ∧
      ((1 : Nibble).toNat > 0 ∧ ({ ready with i := 0x1000 } : State).i.toNat + (1 : Nibble).toNat - 1 > 0x0FFF) ∧
      (∃ px py, pixel (setPixel ready.fb 0 0 true) px py = true ∧ SpriteHits ready 0 0 5 px py) ∧
      ¬(∃ px py, pixel ready.fb px py = true ∧ SpriteHits ready 0 0 5 px py) := by
  refine ⟨by decide, by decide, by decide, ⟨0, 0, by decide, 0, 0, by decide, by decide, ?_, by decide⟩, ?_⟩
  · exact (by decide : (0 : Fin 64).val = 0 + 0 ∧ (0 : Fin 32).val = 0 + 0)
  · rintro ⟨px, py, h, -⟩
    simp [ready, State.reset, pixel] at h

theorem witness_DrawingTwiceRestoresTheScreen :
    (1 : RegIdx) ≠ 0xF ∧ (2 : RegIdx) ≠ 0xF ∧
      ((5 : Nibble).toNat = 0 ∨ ready.i.toNat + (5 : Nibble).toNat - 1 ≤ 0x0FFF) ∧
      ∀ px py, pixel ready.fb px py = false := by
  refine ⟨by decide, by decide, by decide, fun px py => ?_⟩
  simp [ready, State.reset, pixel]

theorem witness_OnlyTheHostClearsFrameDirty :
    ∃ t, step (given .frameAck ready) = .next t ∧ (given .frameAck ready).frameDirty = true ∧ t.frameDirty = false :=
  ⟨_, rfl, by decide, by decide⟩

theorem witness_WaitForKeyTakesTheLeastKey :
    (∀ k : Fin 16, ready.keys[k] = false) ∧
    (let s := { ready with keys := ready.keys.set 0xF true };
      s.keys[(0xF : Fin 16)] = true ∧ ∀ j : Fin 16, j < 0xF → s.keys[j] = false) ∧
    (let s := { ready with keys := Vector.replicate 16 true };
      s.keys[(0 : Fin 16)] = true ∧ ∀ j : Fin 16, j < 0 → s.keys[j] = false) := by decide

theorem witness_TickCountsBothTimersDown :
    let enabled : State → Prop := fun s => s.events = [.tick] ∧ s.alive = true ∧ s.halted = false ∧
      (s.paused = false ∨ s.params.tickWhenPaused = true)
    enabled (given .tick ready) ∧ enabled (given .tick ready.pause) ∧
      ((given .tick stopped).events = [.tick] ∧
        ¬((given .tick stopped).alive = true ∧ (given .tick stopped).halted = false ∧
          ((given .tick stopped).paused = false ∨ (given .tick stopped).params.tickWhenPaused = true))) := by
  decide

theorem witness_BeepExactlyWhenStReachesOne :
    ∃ t, step (given .tick { ready with st := 2 }) = .next t ∧ t.st.toNat = 1 := ⟨_, rfl, by decide⟩

theorem witness_OnlyTheHostMovesKeys :
    (∀ k : Nibble, ∀ down : Bool, (given (if down then .keyDown k else .keyUp k) ready).events =
      (if down then .keyDown k else .keyUp k) :: []) ∧
    (∃ t, step (given .tick ready) = .next t) ∧ (∀ k es, (given .tick ready).events ≠ .keyDown k :: es) ∧
      (∀ k es, (given .tick ready).events ≠ .keyUp k :: es) := by
  refine ⟨fun _ _ => rfl, ⟨_, rfl⟩, ?_, ?_⟩ <;> simp [given]

theorem witness_FaultingCycleIsPrecise :
    ready.halted = false ∧ ∃ t, exec (.ldB 0) { ready with i := 0x0FFE } = .next t ∧ t.halted = true :=
  ⟨by decide, _, rfl, by decide⟩

theorem witness_InstructionsFaultExactlyAsTabled :
    ready.sp.toNat ≤ 16 ∧ FaultsOn ready .ret = some .stackUnderflow ∧ FaultsOn ready .cls = none := by decide

theorem witness_HaltedUntilResetOrLoad :
    stopped.halted = true ∧ (∃ t, step (given .start stopped) = .next t) ∧
      (∀ es, (given .start stopped).events ≠ .reset :: es) ∧
      (∀ rom es, (given .start stopped).events ≠ .load rom :: es) ∧
      (∀ es, (given .start stopped).events ≠ .reload :: es) := by
  refine ⟨by decide, ⟨_, rfl⟩, ?_, ?_, ?_⟩ <;> simp [given]

theorem witness_ResetPortResetsTheCore : (given .reset stopped).events = .reset :: [] := rfl

theorem witness_LoadPortPlacesTheRom :
    (List.replicate 3585 (0 : Byte)).length > 3584 ∧ (List.replicate 3584 (0 : Byte)).length ≤ 3584 ∧
      ∀ rom, (given (.load rom) ready).events = .load rom :: [] := by
  refine ⟨by rw [List.length_replicate]; decide, by rw [List.length_replicate], fun _ => rfl⟩

/-- A load, and a reload when a program has run since; and a reload with nothing to reload. -/
theorem witness_ReloadReproducesTheMemoryImage :
    let rom : List Byte := [0x12, 0x00]
    let s' := { withRegs ready [(3, 7)] with lastRom := some rom, mem := ⟨[(0x300, 0x55)]⟩ }
    romFits rom ∧ s'.params = ready.params ∧ (∃ t, step (given (.load rom) ready) = .next t) ∧ (∃ t', step (given .reload s') = .next t') ∧
      (given .reload s').lastRom = some rom ∧ (given .reload State.reset).lastRom = none := by
  exact ⟨by decide, rfl, ⟨_, rfl⟩, ⟨_, rfl⟩, rfl, rfl⟩

theorem witness_LifecyclePortsMoveTheRunFlags :
    (given .start ready.stop).events = .start :: [] ∧ (given .stop ready).events = .stop :: [] ∧
      (given .pause ready).events = .pause :: [] ∧ (given .resume ready.pause).events = .resume :: [] := by decide

/-- The last pixel inside the grid, the first coordinates outside it under both edge policies, and a plain query. -/
theorem witness_QueriesOnlyAnswer :
    let s := { ready with params := { ready.params with spriteEdge := .wrap } }
    (given .getDelayTimer ready).events = .getDelayTimer :: [] ∧
      (given (.getPixel 63 31) ready).events = .getPixel 63 31 :: [] ∧ (63 : Fin 64).val = 63 ∧ (31 : Fin 32).val = 31 ∧
      ((given (.getPixel 64 32) s).params.spriteEdge = .wrap ∧ (0 : Fin 64).val = 64 % 64 ∧
        (0 : Fin 32).val = 32 % 32) ∧
      ((given (.getPixel 64 0) ready).params.spriteEdge = .clip ∧ (64 > 63 ∨ 0 > 31)) := by decide

theorem witness_ParametersNeverChange : ∃ t, step (given .reset ready) = .next t := ⟨_, rfl⟩

/-- `pause()` and `reset()` while running, `start()` while idle, a faulting cycle, and FX0A with no key down. -/
theorem witness_OnlyTheseEventsMoveTheView :
    (∃ t, step (given .reset stopped) = .next t ∧ stopped.view = .halted ∧ t.view = .idle) ∧
    (∃ t, step (given .cycle ready) = .next t ∧ ready.view = .running ∧ t.view = .halted) ∧
    (∃ t, step (given .start ready.stop) = .next t ∧ ready.stop.view = .idle ∧ t.view = .running) ∧
    (∃ t, step (given .stop ready) = .next t ∧ ready.view = .running ∧ t.view = .idle) ∧
    (∃ t, step (given .pause ready) = .next t ∧ ready.view ≠ .paused ∧ t.view = .paused) ∧
    (∃ t, step (given .resume ready.pause) = .next t ∧ ready.pause.view = .paused ∧ t.view = .running) ∧
    (∃ t, step (ready.withFetchWord 16 0xF00A) = .next t ∧ ready.view = .running ∧ t.view = .waitingForKey) ∧
    (let s := ({ ready with waitKey := true } : State).withFetchWord 16 0xF00A;
      ∃ t, step { s with keys := s.keys.set 2 true } = .next t ∧ s.view = .waitingForKey ∧ t.view = .running) := by
  exact ⟨⟨_, rfl, by decide, by decide⟩, ⟨_, rfl, by decide, by decide⟩, ⟨_, rfl, by decide, by decide⟩,
    ⟨_, rfl, by decide, by decide⟩, ⟨_, rfl, by decide, by decide⟩, ⟨_, rfl, by decide, by decide⟩,
    ⟨_, rfl, by decide, by decide⟩, ⟨_, rfl, by decide, by decide⟩⟩

/-- A running core and a halted one meet the invariant. -/
theorem witness_EveryStepKeepsTheInvariant : MachineInv ready ∧ MachineInv stopped ∧ ∃ t, step ready = .next t := by
  have run : ∀ s : State, s.loaded = true → s.lastRom = some [] → s.programSize = 0 → RunOk s := by
    intro s h1 h2 h3
    refine ⟨fun _ => h1, fun _ => ⟨[], h2, h3.symm⟩, fun h => absurd h1 (by simp [h]), fun rom h => ?_⟩
    rw [h2] at h
    cases h
    decide
  refine ⟨⟨by decide, ⟨by decide, by decide⟩, ?_, ?_, run _ rfl rfl rfl⟩,
    ⟨by decide, ⟨by decide, by decide⟩, ?_, ?_, run _ rfl rfl rfl⟩, _, rfl⟩
  · unfold PcOk; decide
  · exact ⟨rfl, rfl, rfl, rfl⟩
  · unfold PcOk; decide
  · exact ⟨by decide, rfl⟩

theorem witness_EveryStepFromTheInvariantAnswersNext : MachineInv ready := witness_EveryStepKeepsTheInvariant.1

/-- Two ways to the same bytes. -/
theorem witness_CanonicalMemoriesAreDeterminedByTheirBytes :
    let m : Memory := ⟨[(0x300, 0x55)]⟩
    let m' : Memory := (m.write Config.font 0x301 0x66).write Config.font 0x301 0x00
    m.wf Config.font ∧ m'.wf Config.font ∧ ∀ a, m.read Config.font a = m'.read Config.font a := by
  refine ⟨by decide, by decide, fun a => ?_⟩
  rw [show ((⟨[(0x300, 0x55)]⟩ : Memory).write Config.font 0x301 0x66).write Config.font 0x301 0x00 =
    ⟨[(0x300, 0x55)]⟩ by decide]

end Sys2Proof.Tests
end

/-! The parameters of the machine under each operation, instruction, event and step (00_scope.md R7, R8; 10_state.md
R41). -/

namespace Sys2Proof.Machine

/-! ### The shared operations -/

@[simp] theorem skipIf_params (c : Bool) (s : State) : (s.skipIf c).params = s.params := by rw [skipIf_eq]

@[simp] theorem beepOn_params (old new : Byte) (s : State) : (State.beepOn old new s).params = s.params := by
  rw [beepOn_eq]

/-- A range check keeps the parameters when the instruction's own effect does: the fault keeps them anyway. -/
theorem checkRange_params (i : Instr) (n : Nat) {s t : State} (h : t.params = s.params) :
    (checkRange i n s t).params = s.params := by
  obtain ⟨-, e⟩ | ⟨-, e⟩ := checkRange_cases i n s t
  · rw [e, raise_params]
  · rw [e, h]

/-! ### Instructions -/

theorem execCall_params {nnn : Addr12} {s t : State} (h : execCall nnn s = .next t) : t.params = s.params := by
  unfold execCall at h
  split at h <;> cases h <;> rfl

theorem execRet_params {s t : State} (h : execRet s = .next t) : t.params = s.params := by
  unfold execRet at h
  split at h
  · cases h; rfl
  · split at h <;> cases h
    rfl

theorem execLdF_params {x : RegIdx} {s t : State} (h : execLdF x s = .next t) : t.params = s.params := by
  cases h
  split <;> rfl

theorem execLdVxK_params {x : RegIdx} {s t : State} (h : execLdVxK x s = .next t) : t.params = s.params := by
  cases h
  split <;> rfl

/-- No instruction changes a parameter, whether it completes or raises. -/
theorem exec_params {i : Instr} {s t : State} (h : exec i s = .next t) : t.params = s.params := by
  cases i with
  | call => exact execCall_params h
  | ret => exact execRet_params h
  | ldF => exact execLdF_params h
  | ldVxK => exact execLdVxK_params h
  | seImm | sneImm | seReg | sneReg | skp | sknp => cases h; exact skipIf_params _ _
  | ldST => cases h; exact beepOn_params _ _ _
  | drw | ldB | storeRegs | loadRegs => cases h; exact checkRange_params _ _ rfl
  | _ => cases h; rfl

/-! ### Cycles and events -/

/-- A cycle keeps the parameters: a fetch or decode fault writes only the halt record. -/
theorem cycle_params {s t : State} (h : cycle s = .next t) : t.params = s.params := by
  obtain ⟨-, e⟩ | ⟨_, _, -, -, e⟩ | ⟨_, _, -, -, e⟩ := cycle_cases s
  · cases e.symm.trans h; exact raise_params _ _ _ _
  · cases e.symm.trans h; exact raise_params _ _ _ _
  · exact exec_params (e.symm.trans h)

/-- So does a Cycle that happens only when it is enabled (40_cycle.md R126, 60_exceptions.md R292). -/
theorem cycle_if_params {c : Bool} {s t : State} (h : (if c then cycle s else .next s) = .next t) :
    t.params = s.params := by
  split at h
  · exact cycle_params h
  · cases h; rfl

@[simp] theorem tick_params (s : State) : s.tick.params = s.params := beepOn_params _ _ _

@[simp] theorem load_params (s : State) (bytes : List Byte) : (s.load bytes).params = s.params := by
  unfold State.load
  split <;> rfl

@[simp] theorem reload_params (s : State) : s.reload.params = s.params := by
  unfold State.reload
  split
  · exact load_params _ _
  · rfl

@[simp] theorem start_params (s : State) : s.start.params = s.params := by
  unfold State.start
  split <;> rfl

@[simp] theorem pause_params (s : State) : s.pause.params = s.params := by
  unfold State.pause
  split <;> rfl

/-- No event of the three agents changes a parameter. -/
theorem perform_params {e : Event} {s t : State} (h : perform e s = .next t) : t.params = s.params := by
  cases e with
  | cycle | step => exact cycle_if_params h
  | tick =>
    cases h
    split
    · exact tick_params s
    · rfl
  | load => cases h; exact load_params _ _
  | reload => cases h; exact reload_params _
  | start => cases h; exact start_params _
  | pause => cases h; exact pause_params _
  | _ => cases h; rfl

/-- Settles O55: a step performs one event, and taking that event off the list changes no parameter. -/
theorem parametersNeverChange : Obligations.ParametersNeverChange := by
  intro s t h
  obtain ⟨-, e⟩ | ⟨_, es, -, e⟩ := step_performs s
  · exact perform_params (e.symm.trans h)
  · exact perform_params (s := { s with events := es }) (e.symm.trans h)

end Sys2Proof.Machine

/-! The machine's memory as data: a canonical cell list is determined by what it reads as (10_state.md R38). -/

namespace Sys2Proof.Machine

/-- In a rising cell list a lookup finds exactly the listed cells. -/
theorem lookup_eq_some_iff {l : List Host.Cell} (h : Rising l) (c : Host.Cell) :
    Memory.lookup l c.1 = some c.2 ↔ c ∈ l := by
  induction l with
  | nil => simp [Memory.lookup]
  | cons d rest ih =>
    obtain ⟨hd, hr⟩ := List.pairwise_cons.mp h
    rw [Memory.lookup, List.mem_cons, ← ih hr]
    split
    · next e =>
      have absent : Memory.lookup rest c.1 = none := lookup_none_of_lt (e ▸ hd)
      simp [absent, Prod.ext_iff, e, eq_comm]
    · next ne =>
      have : c ≠ d := fun e => ne (e ▸ rfl)
      simp [this]

/-- Rising cell lists in which every address looks up the same are equal. -/
theorem eq_of_lookup_eq {l l' : List Host.Cell} (h : Rising l) (h' : Rising l')
    (e : ∀ a, Memory.lookup l a = Memory.lookup l' a) : l = l' := by
  have : Std.Irrefl fun p q : Host.Cell => p.1 < q.1 := ⟨fun p => Nat.lt_irrefl p.1⟩
  have : Std.Antisymm fun p q : Host.Cell => p.1 < q.1 := ⟨fun _ _ hpq hqp => absurd hqp (Nat.lt_asymm hpq)⟩
  refine h.eq_of_mem_iff h' fun c => ?_
  rw [← lookup_eq_some_iff h, ← lookup_eq_some_iff h', e]

/-- A canonical memory lists exactly the addresses that read otherwise than after reset. -/
theorem lookup_eq_of_wf {m : Memory} {font : Font} (hm : m.wf font) (a : Nat) :
    Memory.lookup m.cells a =
      if m.read font a = Memory.unlisted font a then none else some (m.read font a) := by
  obtain ⟨rising, listed⟩ := hm
  unfold Memory.read
  cases h : Memory.lookup m.cells a with
  | none => simp
  | some b =>
    have ne : b ≠ Memory.unlisted font a := (listed (a, b) ((lookup_eq_some_iff rising (a, b)).mp h)).2
    simp [ne]

/-- Settles O59: the bytes determine every lookup, and the lookups determine the rising list. -/
theorem canonicalMemoriesAreDeterminedByTheirBytes : Obligations.CanonicalMemoriesAreDeterminedByTheirBytes := by
  intro font ⟨cells⟩ ⟨cells'⟩ hm hm' same
  have : cells = cells' := eq_of_lookup_eq hm.1 hm'.1 fun a => by
    rw [lookup_eq_of_wf hm, lookup_eq_of_wf hm', same]
  rw [this]

end Sys2Proof.Machine

/-! The registers under every instruction (10_state.md R40, 42_alu.md R160). -/

namespace Sys2Proof.Machine

/-- `r` is neither the destination that `i` names nor VF written as a flag by `i`. -/
def LeavesReg (i : Instr) (r : RegIdx) : Prop :=
  namesDestination r i = false ∧ (r = vf → writesFlag i = false)

/-- What holds after every fault and after the instruction's own effect holds after a range-checked instruction. -/
theorem checkRange_induction {P : State → Prop} (i : Instr) (n : Nat) {s t : State}
    (fault : P (s.raise .memOutOfRange (encode i) (lowestOutOfRange s.i))) (effect : P t) : P (checkRange i n s t) := by
  obtain ⟨-, e⟩ | ⟨-, e⟩ := checkRange_cases i n s t
  · rw [e]; exact fault
  · rw [e]; exact effect

@[simp] theorem skipIf_reg (c : Bool) (s : State) (r : RegIdx) : (s.skipIf c).reg r = s.reg r := by
  rw [skipIf_eq]; rfl

@[simp] theorem beepOn_reg (old new : Byte) (s : State) (r : RegIdx) : (State.beepOn old new s).reg r = s.reg r := by
  rw [beepOn_eq]; rfl

theorem reg_flagThenResult_other (s : State) {x r : RegIdx} (flag result : Byte) (hx : r ≠ x) (hf : r ≠ vf) :
    (s.flagThenResult x flag result).reg r = s.reg r := by
  rw [reg_flagThenResult, if_neg hx, if_neg hf]

theorem reg_resultThenZero_other (s : State) {x r : RegIdx} (result : Byte) (hx : r ≠ x) (hf : r ≠ vf) :
    (s.resultThenZero x result).reg r = s.reg r := by
  rw [reg_resultThenZero, if_neg hf, if_neg hx]

/-- Loading `x + 1` registers from V0 up leaves those above V[x] alone (43_index_memory.md R195). -/
theorem getElem_setRegsFrom_above (v : Vector Byte 16) (bs : List Byte) {r : RegIdx} (h : bs.length ≤ r.toNat) :
    (setRegsFrom v 0 bs)[r.toNat]'r.isLt = v[r.toNat]'r.isLt := by
  rw [getElem_setRegsFrom, dif_neg (by omega)]

/-- CALL and RET, completed or raising, write no register. -/
theorem execCall_v {nnn : Addr12} {s t : State} (h : execCall nnn s = .next t) : t.v = s.v := by
  unfold execCall at h
  split at h <;> cases h <;> rfl

theorem execRet_v {s t : State} (h : execRet s = .next t) : t.v = s.v := by
  unfold execRet at h
  split at h
  · cases h; rfl
  · split at h <;> cases h
    rfl

theorem execLdVxK_reg_other {x r : RegIdx} {s t : State} (h : execLdVxK x s = .next t) (hx : r ≠ x) :
    t.reg r = s.reg r := by
  cases h
  split
  · rfl
  · exact reg_setReg_other _ _ hx

theorem execLoadRegs_reg_above {x r : RegIdx} {s t : State} (h : execLoadRegs x s = .next t) (hx : x.toNat < r.toNat) :
    t.reg r = s.reg r := by
  cases h
  exact checkRange_induction (P := fun t => t.reg r = s.reg r) _ _ (raise_reg ..)
    (getElem_setRegsFrom_above _ _ (by simpa [State.bytesAt] using hx))

/-- No instruction changes a register it leaves, whether it completes or raises. -/
theorem exec_reg {i : Instr} {s t : State} {r : RegIdx} (h : exec i s = .next t) (hr : LeavesReg i r) :
    t.reg r = s.reg r := by
  obtain ⟨dest, flag⟩ := hr
  cases i with
  | call => simp [State.reg, execCall_v h]
  | ret => simp [State.reg, execRet_v h]
  | seImm | sneImm | seReg | sneReg | skp | sknp => cases h; exact skipIf_reg _ _ _
  | ldST => cases h; exact beepOn_reg _ _ _ _
  | ldF => cases h; split <;> rfl
  | ldImm | addImm | ldReg | rnd | ldVxDT => cases h; exact reg_setReg_other _ _ (ne_of_beq_false dest)
  | ldVxK => exact execLdVxK_reg_other h (ne_of_beq_false dest)
  | orReg | andReg | xorReg =>
    cases h; exact reg_resultThenZero_other _ _ (ne_of_beq_false dest) (fun e => nomatch flag e)
  | addReg | subReg | subn | shr | shl =>
    cases h; exact reg_flagThenResult_other _ _ _ (ne_of_beq_false dest) (fun e => nomatch flag e)
  | drw =>
    cases h
    exact checkRange_induction (P := fun t => t.reg r = s.reg r) _ _ (raise_reg ..)
      (reg_setReg_other _ _ fun e => nomatch flag e)
  | ldB | storeRegs =>
    cases h; exact checkRange_induction (P := fun t => t.reg r = s.reg r) _ _ (raise_reg ..) rfl
  | loadRegs x => exact execLoadRegs_reg_above h (by simpa [namesDestination] using dest)
  | cls | jp | jpV0 | ldI | addI | ldDT => cases h; rfl

/-- Settles O27: VF and the other registers are the two ways in which an instruction leaves a register. -/
theorem registersChangeOnlyAsNamed : Obligations.RegistersChangeOnlyAsNamed := by
  intro i s t h
  exact ⟨fun flag dest => exec_reg h ⟨dest, fun _ => flag⟩,
    fun r other dest => exec_reg h ⟨dest, fun isVf => absurd isVf other⟩⟩

end Sys2Proof.Machine

/-! What a cycle can do to the parts of the state that the invariant reads (10_state.md R23, R26, R27, R30, R32, R35). -/

namespace Sys2Proof.Machine

/-- The cycle that began at `s` raised a fault (60_exceptions.md R262). -/
def Raises (s t : State) : Prop := ∃ cause op addr, cause ≠ .none ∧ t = s.raise cause op addr

/-- `t` has the parameters, the run flags but `WaitKey`, the halt record and the ROM fields of `s`. -/
structure KeepsControl (s t : State) : Prop where
  params : t.params = s.params
  loaded : t.loaded = s.loaded
  alive : t.alive = s.alive
  paused : t.paused = s.paused
  halted : t.halted = s.halted
  haltCause : t.haltCause = s.haltCause
  haltPC : t.haltPC = s.haltPC
  haltOpcode : t.haltOpcode = s.haltOpcode
  haltAddr : t.haltAddr = s.haltAddr
  programSize : t.programSize = s.programSize
  lastRom : t.lastRom = s.lastRom

/-- How a completed cycle leaves the stack: as it was, with the advanced PC pushed (41_control_flow.md R141), or with its
top entry popped (R142). -/
inductive StackMove (s t : State) : Prop
  | stays (sp : t.sp = s.sp) (stack : t.stack = s.stack)
  | pushes (room : s.sp.toNat < 16) (sp : t.sp = s.sp + 1) (stack : t.stack = s.stack.set s.sp.toNat (s.pc + 2) room)
  | pops (used : s.sp ≠ 0) (sp : t.sp = s.sp - 1) (stack : t.stack = s.stack)

/-- What a completed cycle of `i` does to the parts of the state that the invariant reads. -/
structure Completes (i : Instr) (s t : State) : Prop where
  pc : t.pc = pcAfter s i
  stack : StackMove s t
  mem : ∃ a bs, t.mem = s.mem.writeBytes s.params.font a bs
  control : KeepsControl s t

/-! ### The shared operations -/

/-- A state that differs from the one the cycle began with in none of those parts but PC. -/
theorem completes_of_fields {i : Instr} {s t : State} (pc : t.pc = pcAfter s i) (sp : t.sp = s.sp)
    (stack : t.stack = s.stack) (mem : t.mem = s.mem) (control : KeepsControl s t := by constructor <;> rfl) :
    Completes i s t :=
  ⟨pc, .stays sp stack, ⟨0, [], mem⟩, control⟩

theorem skipIf_completes {i : Instr} {s : State} {c : Bool} (h : pcAfter s i = if c then s.pc + 4 else s.pc + 2) :
    Completes i s (s.beginCycle.skipIf c) := by
  rw [skipIf_eq]
  refine completes_of_fields ?_ rfl rfl rfl
  rw [h, beginCycle_pc]
  split
  · rw [BitVec.add_assoc]; rfl
  · rfl

theorem checkRange_completes {i : Instr} {n : Nat} {s t : State} (h : Completes i s t) :
    Raises s (checkRange i n s t) ∨ Completes i s (checkRange i n s t) :=
  checkRange_induction (P := fun t => Raises s t ∨ Completes i s t) i n (.inl ⟨_, _, _, by simp, rfl⟩) (.inr h)

/-! ### Instructions -/

theorem execCall_completes {nnn : Addr12} {s t : State} (h : execCall nnn s = .next t) :
    Raises s t ∨ Completes (.call nnn) s t := by
  unfold execCall at h
  split at h
  · next room => cases h; exact .inr ⟨rfl, .pushes room rfl rfl, ⟨0, [], rfl⟩, by constructor <;> rfl⟩
  · cases h; exact .inl ⟨_, _, _, by simp, rfl⟩

theorem execRet_completes {s t : State} (h : execRet s = .next t) : Raises s t ∨ Completes .ret s t := by
  unfold execRet at h
  split at h
  · cases h; exact .inl ⟨_, _, _, by simp, rfl⟩
  · next used =>
    split at h
    · next top =>
      cases h
      exact .inr ⟨by simp [pcAfter, top], .pops used rfl rfl, ⟨0, [], rfl⟩, by constructor <;> rfl⟩
    · cases h

theorem execLdVxK_completes {x : RegIdx} {s t : State} (h : execLdVxK x s = .next t) : Completes (.ldVxK x) s t := by
  cases h
  obtain ⟨e, up⟩ | ⟨k, e, down, -⟩ := lowestDown_cases s <;> rw [e]
  · have noKey : ¬∃ k : Fin 16, s.keys[k] = true := fun ⟨k, down⟩ => by simp [up k] at down
    exact completes_of_fields ((BitVec.add_sub_cancel ..).trans (if_neg noKey).symm) rfl rfl rfl
  · exact completes_of_fields (if_pos ⟨k, down⟩).symm rfl rfl rfl

/-- Every instruction that answers a next state raises a fault or completes. -/
theorem exec_cases {i : Instr} {s t : State} (h : exec i s = .next t) : Raises s t ∨ Completes i s t := by
  cases i with
  | call => exact execCall_completes h
  | ret => exact execRet_completes h
  | seImm | sneImm | seReg | sneReg => cases h; exact .inr (skipIf_completes (by simp [pcAfter]))
  | skp => cases h; exact .inr (skipIf_completes (by simp [pcAfter, keyIsDown_iff]))
  | sknp => cases h; exact .inr (skipIf_completes (by
      simp only [pcAfter, ← keyIsDown_iff]
      cases s.keyIsDown _ <;> rfl))
  | ldVxK => exact .inr (execLdVxK_completes h)
  | ldST => cases h; rw [beepOn_eq]; exact .inr (completes_of_fields rfl rfl rfl rfl)
  | ldF => cases h; split <;> exact .inr (completes_of_fields rfl rfl rfl rfl)
  | drw | loadRegs =>
    cases h; exact checkRange_completes (completes_of_fields rfl rfl rfl rfl)
  | ldB | storeRegs =>
    cases h; exact checkRange_completes ⟨rfl, .stays rfl rfl, ⟨_, _, rfl⟩, by constructor <;> rfl⟩
  | _ => cases h; exact .inr (completes_of_fields rfl rfl rfl rfl)

end Sys2Proof.Machine

/-! The invariant of the machine holds at power-on and under every step (10_state.md R23, R26, R27, R30, R32, R35,
60_exceptions.md R263). -/

namespace Sys2Proof.Machine

/-! ### A completed cycle -/

/-- "The largest value PC can take is 0x10FE" (10_state.md R23): BNNN reaches it, every other instruction stays below. -/
theorem pcAfter_le {s : State} (i : Instr) (pc : s.pc.toNat ≤ 0x0FFE) (stack : StackOk s) :
    (pcAfter s i).toNat ≤ 0x10FE := by
  have next2 : (s.pc + 2).toNat = s.pc.toNat + 2 := by bv_omega
  have next4 : (s.pc + 4).toNat = s.pc.toNat + 4 := by bv_omega
  cases i with
  | jp nnn | call nnn => simp only [pcAfter, BitVec.toNat_setWidth]; omega
  | jpV0 nnn => simp only [pcAfter, BitVec.toNat_add, BitVec.toNat_setWidth]; omega
  | ret =>
    obtain ⟨sp, entries⟩ := stack
    have room : s.sp.toNat - 1 < 16 := by omega
    have top : s.stack[s.sp.toNat - 1].toNat ≤ 0x1000 := entries ⟨_, room⟩
    simp only [pcAfter, Vector.getElem?_eq_getElem room, Option.getD_some]
    omega
  | seImm | sneImm | seReg | sneReg | skp | sknp | ldVxK => simp only [pcAfter]; split <;> omega
  | _ => simp only [pcAfter]; omega

/-- SP stays in 0..16, and a push stores an address a fetch can advance to (10_state.md R26, R27). -/
theorem StackMove.stackOk {s t : State} (move : StackMove s t) (pc : s.pc.toNat ≤ 0x0FFE) (h : StackOk s) :
    StackOk t := by
  obtain ⟨bound, entries⟩ := h
  cases move with
  | stays sp stack => exact ⟨sp ▸ bound, stack ▸ entries⟩
  | pushes room sp stack =>
    have pushed : (s.pc + 2).toNat ≤ 0x1000 := by bv_omega
    refine ⟨by rw [sp]; bv_omega, fun k => ?_⟩
    rw [stack, Fin.getElem_fin, Vector.getElem_set]
    split
    · exact pushed
    · exact entries k
  | pops used sp stack => exact ⟨by rw [sp]; bv_omega, stack ▸ entries⟩

/-- The halt record of a core that runs is all 0 and stays so (10_state.md R32). -/
theorem KeepsControl.haltOk {s t : State} (keeps : KeepsControl s t) (running : s.halted = false) (h : HaltOk s) :
    HaltOk t := by
  simp only [HaltOk, keeps.halted, keeps.haltCause, keeps.haltPC, keeps.haltOpcode, keeps.haltAddr, running] at h ⊢
  exact h

/-- `RunOk` reads the run flags only to say that each of them needs a loaded program. -/
theorem RunOk.of_rom_kept {s t : State} (h : RunOk s) (loaded : t.loaded = s.loaded)
    (size : t.programSize = s.programSize) (rom : t.lastRom = s.lastRom)
    (flags : (t.alive ∨ t.paused ∨ t.waitKey ∨ t.halted) → s.loaded) : RunOk t := by
  obtain ⟨-, image, noImage, fits⟩ := h
  refine ⟨fun f => loaded ▸ flags f, ?_, ?_, ?_⟩
  · rwa [loaded, size, rom]
  · rwa [loaded, size]
  · rwa [rom]

/-- Before a load: no run flag is set, and at most an earlier ROM is kept. -/
theorem RunOk.of_not_loaded {s : State}
    (off : s.alive = false ∧ s.paused = false ∧ s.waitKey = false ∧ s.halted = false)
    (loaded : s.loaded = false) (size : s.programSize = 0) (fits : ∀ rom, s.lastRom = some rom → romFits rom) :
    RunOk s := by
  obtain ⟨alive, paused, waitKey, halted⟩ := off
  exact ⟨by simp [alive, paused, waitKey, halted], by simp [loaded], fun _ => size, fits⟩

/-- After a load: the ROM kept is the one loaded. -/
theorem RunOk.of_loaded {s : State} {rom : List Byte} (loaded : s.loaded = true) (kept : s.lastRom = some rom)
    (size : s.programSize = rom.length) (fits : romFits rom) : RunOk s := by
  refine ⟨fun _ => loaded, fun _ => ⟨rom, kept, size.symm⟩, by simp [loaded], fun r e => ?_⟩
  obtain rfl : rom = r := by simpa [kept] using e
  exact fits

theorem MachineInv.of_completes {i : Instr} {s t : State} (h : MachineInv s) (step : Completes i s t)
    (pc : s.pc.toNat ≤ 0x0FFE) (running : s.halted = false) (loaded : s.loaded = true) : MachineInv t where
  mem := by
    obtain ⟨a, bs, e⟩ := step.mem
    rw [e, step.control.params]
    exact wf_writeBytes h.mem a bs
  stack := step.stack.stackOk pc h.stack
  pc := (congrArg BitVec.toNat step.pc).trans_le (pcAfter_le i pc h.stack)
  halt := step.control.haltOk running h.halt
  run := h.run.of_rom_kept step.control.loaded step.control.programSize step.control.lastRom fun _ => loaded

/-! ### A fault -/

/-- A fault records a cause and the address that PC keeps (60_exceptions.md R262, R263). -/
theorem MachineInv.raise {s : State} (h : MachineInv s) (loaded : s.loaded = true) {cause : HaltCause}
    (named : cause ≠ .none) (op addr : Word) : MachineInv (s.raise cause op addr) where
  mem := h.mem
  stack := h.stack
  pc := h.pc
  halt := ⟨named, rfl⟩
  run := h.run.of_rom_kept rfl rfl rfl fun _ => loaded

/-- A cycle of a loaded core that is not halted keeps the invariant. -/
theorem MachineInv.cycle {s t : State} (h : MachineInv s) (running : s.halted = false) (loaded : s.loaded = true)
    (e : cycle s = .next t) : MachineInv t := by
  obtain ⟨-, c⟩ | ⟨op, _, -, -, c⟩ | ⟨op, i, fetched, -, c⟩ := cycle_cases s
  · cases c.symm.trans e; exact h.raise loaded (by decide) _ _
  · cases c.symm.trans e; exact h.raise loaded (by decide) _ _
  · have pc : s.pc.toNat ≤ 0x0FFE := by
      by_contra beyond
      simp [fetch_eq_none (Nat.not_le.mp beyond)] at fetched
    obtain ⟨cause, op, addr, named, rfl⟩ | completed := exec_cases (c.symm.trans e)
    · exact h.raise loaded named op addr
    · exact h.of_completes completed pc running loaded

/-- So does a Cycle that happens only when an alive core is not halted (40_cycle.md R126, 60_exceptions.md R292). -/
theorem MachineInv.cycle_if {s t : State} (h : MachineInv s) {enabled : Bool}
    (runs : enabled = true → s.alive = true ∧ s.halted = false)
    (e : (if enabled then Machine.cycle s else .next s) = .next t) : MachineInv t := by
  split at e
  · next on => exact h.cycle (runs on).2 (h.run.1 (.inl (runs on).1)) e
  · cases e; exact h

/-! ### Power-on, reset and load -/

/-- Settles O56: no cell is listed, nothing is loaded, and PC is 0x200. -/
theorem powerOnMeetsTheInvariant : Obligations.PowerOnMeetsTheInvariant where
  mem := wf_reset _
  stack := ⟨by decide, by decide⟩
  pc := by unfold PcOk; decide
  halt := ⟨rfl, rfl, rfl, rfl⟩
  run := .of_not_loaded ⟨rfl, rfl, rfl, rfl⟩ rfl rfl nofun

/-- `reset()` keeps nothing that the invariant reads but the parameters and `LastRom` (70_reset_and_hazards.md R321). -/
theorem MachineInv.hostReset {s : State} (h : MachineInv s) : MachineInv s.hostReset where
  mem := wf_reset _
  stack := powerOnMeetsTheInvariant.stack
  pc := powerOnMeetsTheInvariant.pc
  halt := powerOnMeetsTheInvariant.halt
  run :=
    have ⟨_, _, _, fits⟩ := h.run
    .of_not_loaded ⟨rfl, rfl, rfl, rfl⟩ rfl rfl fits

/-- A load that fails changes only the outputs; one that succeeds leaves the ROM it checked (70_reset_and_hazards.md
R330). -/
theorem MachineInv.load {s : State} (h : MachineInv s) (bytes : List Byte) : MachineInv (s.load bytes) := by
  unfold State.load
  split
  · next fits =>
    have reset := h.hostReset
    exact
      { mem := wf_storeBytes reset.mem 0x200 bytes
        stack := reset.stack
        pc := reset.pc
        halt := reset.halt
        run := .of_loaded rfl rfl rfl fits }
  · exact ⟨h.mem, h.stack, h.pc, h.halt, h.run⟩

theorem MachineInv.reload {s : State} (h : MachineInv s) : MachineInv s.reload := by
  unfold State.reload
  split
  · exact h.load _
  · exact ⟨h.mem, h.stack, h.pc, h.halt, h.run⟩

/-! ### The other events -/

theorem MachineInv.tick {s : State} (h : MachineInv s) : MachineInv s.tick := by
  rw [State.tick, beepOn_eq]
  exact ⟨h.mem, h.stack, h.pc, h.halt, h.run⟩

/-- Setting or clearing `Alive` and `Paused` keeps the invariant, once a program is loaded if one is set. -/
theorem MachineInv.setFlags {s : State} (h : MachineInv s) (alive paused : Bool)
    (needs : alive = true ∨ paused = true → s.loaded = true) :
    MachineInv { s with alive := alive, paused := paused } where
  mem := h.mem
  stack := h.stack
  pc := h.pc
  halt := h.halt
  run := h.run.of_rom_kept rfl rfl rfl fun
    | .inl a => needs (.inl a)
    | .inr (.inl p) => needs (.inr p)
    | .inr (.inr f) => h.run.1 (.inr (.inr f))

theorem MachineInv.start {s : State} (h : MachineInv s) : MachineInv s.start := by
  unfold State.start
  split
  · next on =>
    obtain ⟨⟨loaded, -⟩, -⟩ : (s.loaded = true ∧ s.alive = false) ∧ s.halted = false := by
      simpa [State.startEnabled] using on
    exact h.setFlags _ _ fun _ => loaded
  · exact h

theorem MachineInv.pause {s : State} (h : MachineInv s) : MachineInv s.pause := by
  unfold State.pause
  split
  · next on =>
    obtain ⟨alive, -⟩ : s.alive = true ∧ s.halted = false := by simpa using on
    exact h.setFlags s.alive true fun _ => h.run.1 (.inl alive)
  · exact h

/-- Every event that answers a next state keeps the invariant. -/
theorem MachineInv.perform {e : Event} {s t : State} (h : MachineInv s) (p : perform e s = .next t) : MachineInv t := by
  have needs : s.alive = true ∨ s.paused = true → s.loaded = true := fun f => h.run.1 (f.imp_right .inl)
  cases e with
  | cycle => exact h.cycle_if (by simp +contextual [State.cycleEnabled]) p
  | step => exact h.cycle_if (by simp +contextual [State.stepEnabled]) p
  | tick =>
    cases p
    split
    · exact h.tick
    · exact h
  | reset => cases p; exact h.hostReset
  | load bytes => cases p; exact h.load bytes
  | reload => cases p; exact h.reload
  | start => cases p; exact h.start
  | stop => cases p; exact h.setFlags false s.paused fun f => needs (f.imp_left nofun)
  | pause => cases p; exact h.pause
  | resume => cases p; exact h.setFlags s.alive false fun f => needs (f.imp_right nofun)
  | _ => cases p; exact ⟨h.mem, h.stack, h.pc, h.halt, h.run⟩

/-- Settles O57: a step performs one event, and taking that event off the list touches nothing the invariant reads. -/
theorem everyStepKeepsTheInvariant : Obligations.EveryStepKeepsTheInvariant := by
  intro s t h e
  obtain ⟨-, p⟩ | ⟨_, es, -, p⟩ := step_performs s
  · exact h.perform (p.symm.trans e)
  · have rest : MachineInv { s with events := es } := ⟨h.mem, h.stack, h.pc, h.halt, h.run⟩
    exact rest.perform (p.symm.trans e)

end Sys2Proof.Machine

/-! The values after power-on (10_state.md R42), and the model's own stop (log 9). -/

namespace Sys2Proof.Machine

theorem reset_reg (r : RegIdx) : State.reset.reg r = 0 := Vector.getElem_replicate _

theorem reset_pixel (px : Fin 64) (py : Fin 32) : pixel State.reset.fb px py = false := by
  simp [pixel, State.reset]

/-- Memory at power-on reads as an unlisted address does: the default font, and 0 above it. -/
theorem reset_byteAt (a : Nat) : State.reset.byteAt a = Memory.unlisted Config.font a := rfl

/-- Settles O48: registers, stack, latch and screen by what a replicated vector holds, memory by its reset contents, each
other element as `State.reset` writes it. -/
theorem powerOnValues : Obligations.PowerOnValues := by
  have zeroEntry (k : Fin 16) : State.reset.stack[k] = 0 := Vector.getElem_replicate _
  have keyUp (k : Fin 16) : State.reset.keys[k] = false := Vector.getElem_replicate _
  have fontByte (k : Fin 80) : State.reset.byteAt k.val = Config.font[k] := unlisted_of_lt Config.font k.isLt
  have zeroByte (a : Nat) (above : 80 ≤ a) : State.reset.byteAt a = 0 := unlisted_of_le Config.font above
  exact ⟨reset_reg, rfl, rfl, rfl, zeroEntry, rfl, rfl, fontByte, zeroByte, reset_pixel, rfl, rfl, rfl, rfl, rfl,
    rfl, rfl, rfl, rfl, rfl, rfl, rfl, keyUp, rfl⟩

/-- RET stops where the entry below SP does not exist (10_state.md R26, log 9). -/
theorem execRet_eq_fault {s : State} (h : 16 < s.sp.toNat) : execRet s = .fault .stackPointerIllegal := by
  have used : s.sp ≠ 0 := by bv_omega
  rw [execRet, if_neg used, dif_neg (by omega)]

/-- Settles O16: it is RET's own stop. -/
theorem returnStopsOnAnIllegalSp : Obligations.ReturnStopsOnAnIllegalSp := fun _ h => execRet_eq_fault h

end Sys2Proof.Machine

/-! The bytes that FX33 and FX55 leave in memory, and the fetch that reads them (20_memory.md R73). -/

namespace Sys2Proof.Machine

/-- The range check passes when every address from `I` up exists (60_exceptions.md R265). -/
theorem checkRange_of_inRange (i : Instr) {n : Nat} {s : State} (t : State) (h : s.i.toNat + n ≤ 0x1000) :
    checkRange i n s t = t := by
  have inRange : outOfRange s.i n = false := by simp only [outOfRange, decide_eq_false_iff_not]; omega
  rw [checkRange, inRange, if_neg Bool.false_ne_true]

/-- A fetch at `a` reads the bytes at `a` and `a + 1` (40_cycle.md R121). -/
theorem fetch_of_byteAt {t : State} {a : Nat} {stored : Nat → Byte} (ha : a ≤ 0x0FFE)
    (h : ∀ b, t.byteAt b = stored b) :
    ({ t with pc := BitVec.ofNat 16 a } : State).fetch = some (wordOf (stored a) (stored (a + 1))) := by
  have pc : (BitVec.ofNat 16 a).toNat = a := by rw [BitVec.toNat_ofNat]; omega
  rw [← h, ← h, fetch_eq_some (by rw [pc]; exact ha), pc]
  rfl

/-- FX33 leaves the three digits from `I` up and every other byte as it was (43_index_memory.md R193). -/
theorem byteAt_execLdB {s t : State} {x : RegIdx} (hm : s.mem.wf s.params.font) (range : s.i.toNat + 2 ≤ 0x0FFF)
    (h : execLdB x s = .next t) (b : Nat) :
    t.byteAt b =
      if b = s.i.toNat then BitVec.ofNat 8 ((s.reg x).toNat / 100)
      else if b = s.i.toNat + 1 then BitVec.ofNat 8 ((s.reg x).toNat / 10 % 10)
      else if b = s.i.toNat + 2 then BitVec.ofNat 8 ((s.reg x).toNat % 10)
      else s.byteAt b := by
  cases h
  rw [checkRange_of_inRange _ _ (by omega)]
  refine (byteAt_storeBytes hm (by simp only [decimalDigits, List.length]; omega) b).trans ?_
  by_cases below : b < s.i.toNat
  · rw [if_neg (by omega), if_neg (by omega), if_neg (by omega), if_neg (by omega)]
  · obtain ⟨k, rfl⟩ := Nat.exists_eq_add_of_le (Nat.not_lt.mp below)
    rw [if_pos (Nat.le_add_right ..), Nat.add_sub_cancel_left]
    match k with
    | 0 | 1 | 2 | k + 3 => simp [decimalDigits]

/-- FX55 leaves V[0] to V[x] from `I` up and every other byte as it was (43_index_memory.md R194). -/
theorem byteAt_execStoreRegs {s t : State} {x : RegIdx} (hm : s.mem.wf s.params.font)
    (range : s.i.toNat + x.toNat ≤ 0x0FFF) (h : execStoreRegs x s = .next t) (b : Nat) :
    t.byteAt b =
      if s.i.toNat ≤ b ∧ b ≤ s.i.toNat + x.toNat then s.reg (BitVec.ofNat 4 (b - s.i.toNat)) else s.byteAt b := by
  cases h
  rw [checkRange_of_inRange _ _ (by omega)]
  refine (byteAt_storeBytes hm (by rw [length_regsUpTo]; omega) b).trans ?_
  by_cases inside : s.i.toNat ≤ b ∧ b ≤ s.i.toNat + x.toNat
  · rw [if_pos inside, if_pos inside.1, getElem?_regsUpTo _ _ (by omega), Option.getD_some]
  · rw [if_neg inside]
    split
    · rw [List.getElem?_eq_none (by rw [length_regsUpTo]; omega), Option.getD_none]
    · rfl

/-- Settles O33: a fetch reads two bytes, and what each store leaves at an address is known. -/
theorem storesAreSeenByTheNextFetch : Obligations.StoresAreSeenByTheNextFetch := by
  intro s t x a hm ha
  constructor
  · intro range h stored
    exact fetch_of_byteAt ha (byteAt_execLdB hm range h)
  · intro range h stored
    exact fetch_of_byteAt ha (byteAt_execStoreRegs hm range h)

end Sys2Proof.Machine

/-! The parts of the state that each instruction can write (20_memory.md R65, 10_state.md R25 to R30, R36, R37). -/

namespace Sys2Proof.Machine

/-- The parts that an instruction can write beside the registers, PC, `DrewThisCycle` and the halt record. -/
def writtenParts : Instr → List Part
  | .cls | .drw _ _ _ => [.fb, .frameDirty]
  | .ret => [.sp]
  | .call _ => [.sp, .stack]
  | .ldI _ | .addI _ | .loadRegs _ => [.i]
  | .rnd _ _ => [.draws]
  | .ldVxK _ => [.waitKey]
  | .ldDT _ => [.dt]
  | .ldST _ => [.st, .outputs]
  | .ldF _ => [.i, .draws]
  | .ldB _ => [.mem]
  | .storeRegs _ => [.mem, .i]
  | _ => []

/-- The instruction is a DXYN. -/
def isDraw : Instr → Bool
  | .drw _ _ _ => true
  | _ => false

/-- The state that holds a part after a cycle of `i` from `s` to `t`: `t` if `i` writes the part, else still `s`. -/
def holderOf (i : Instr) (s t : State) (p : Part) : State := if p ∈ writtenParts i then t else s

/-- `s` with what a completed cycle of `i` can write taken from `t`, and `DrewThisCycle` as 40_cycle.md R123 sets it. -/
def State.withWrites (i : Instr) (s t : State) : State :=
  { s with
    v := t.v
    pc := t.pc
    drewThisCycle := isDraw i
    mem := (holderOf i s t .mem).mem
    i := (holderOf i s t .i).i
    fb := (holderOf i s t .fb).fb
    frameDirty := (holderOf i s t .frameDirty).frameDirty
    sp := (holderOf i s t .sp).sp
    stack := (holderOf i s t .stack).stack
    dt := (holderOf i s t .dt).dt
    st := (holderOf i s t .st).st
    outputs := (holderOf i s t .outputs).outputs
    waitKey := (holderOf i s t .waitKey).waitKey
    draws := (holderOf i s t .draws).draws }

theorem checkRange_writes {i : Instr} {n : Nat} {s t : State} (h : t = s.withWrites i t) :
    Raises s (checkRange i n s t) ∨ checkRange i n s t = s.withWrites i (checkRange i n s t) :=
  checkRange_induction (P := fun t => Raises s t ∨ t = s.withWrites i t) i n (.inl ⟨_, _, _, by simp, rfl⟩) (.inr h)

theorem execCall_writes {nnn : Addr12} {s t : State} (h : execCall nnn s = .next t) :
    Raises s t ∨ t = s.withWrites (.call nnn) t := by
  unfold execCall at h
  split at h <;> cases h
  · exact .inr rfl
  · exact .inl ⟨_, _, _, by simp, rfl⟩

theorem execRet_writes {s t : State} (h : execRet s = .next t) : Raises s t ∨ t = s.withWrites .ret t := by
  unfold execRet at h
  split at h
  · cases h; exact .inl ⟨_, _, _, by simp, rfl⟩
  · split at h <;> cases h
    exact .inr rfl

/-- An instruction that answers a next state raises a fault or writes no part but its own. -/
theorem exec_writes {i : Instr} {s t : State} (h : exec i s = .next t) : Raises s t ∨ t = s.withWrites i t := by
  cases i with
  | call => exact execCall_writes h
  | ret => exact execRet_writes h
  | drw | ldB | storeRegs | loadRegs => cases h; exact checkRange_writes rfl
  | seImm | sneImm | seReg | sneReg | skp | sknp => cases h; rw [skipIf_eq]; exact .inr rfl
  | ldST => cases h; rw [beepOn_eq]; exact .inr rfl
  | ldF | ldVxK => cases h; split <;> exact .inr rfl
  | _ => cases h; exact .inr rfl

/-- Settles O34: a fault writes none of the parts, and a completed cycle only those that `writtenParts` lists for its
instruction, so the statement is that table read column by column. -/
theorem onlyNamedInstructionsWriteEachPart : Obligations.OnlyNamedInstructionsWriteEachPart := by
  intro i s t h
  obtain ⟨cause, op, addr, -, rfl⟩ | e := exec_writes h
  · exact ⟨fun _ _ => rfl, fun _ _ _ _ _ => rfl, fun _ _ => ⟨rfl, rfl⟩, nofun, fun _ _ => rfl, fun _ => rfl,
      fun _ => rfl, fun _ => ⟨rfl, rfl⟩, fun _ => rfl, fun _ _ => rfl, rfl, rfl, rfl, rfl, rfl, rfl, rfl, rfl⟩
  · rw [e]
    cases i <;> simp [State.withWrites, holderOf, writtenParts, isDraw]

end Sys2Proof.Machine

/-! The decoder and the encoder undo each other, the opcode map's rows, and the illegal words (30_encoding.md R92, R100
to R103). -/

namespace Sys2Proof

/-! ### The fields as numbers (30_encoding.md R92) -/

theorem toNat_fieldTop (op : Word) : (fieldTop op).toNat = op.toNat / 4096 := by
  have := op.isLt
  simp only [fieldTop, BitVec.extractLsb'_toNat, Nat.shiftRight_eq_div_pow]
  omega

theorem toNat_fieldX (op : Word) : (fieldX op).toNat = op.toNat / 256 % 16 := by
  simp only [fieldX, BitVec.extractLsb'_toNat, Nat.shiftRight_eq_div_pow]

theorem toNat_fieldY (op : Word) : (fieldY op).toNat = op.toNat / 16 % 16 := by
  simp only [fieldY, BitVec.extractLsb'_toNat, Nat.shiftRight_eq_div_pow]

theorem toNat_fieldN (op : Word) : (fieldN op).toNat = op.toNat % 16 := by
  simp only [fieldN, BitVec.extractLsb'_toNat, Nat.shiftRight_zero]

theorem toNat_fieldKK (op : Word) : (fieldKK op).toNat = op.toNat % 256 := by
  simp only [fieldKK, BitVec.extractLsb'_toNat, Nat.shiftRight_zero]

theorem toNat_fieldNNN (op : Word) : (fieldNNN op).toNat = op.toNat % 4096 := by
  simp only [fieldNNN, BitVec.extractLsb'_toNat, Nat.shiftRight_zero]

/-- Settles O1: each field's shift and width are a division and a remainder. -/
theorem fieldsAreTheirBitRanges : Obligations.FieldsAreTheirBitRanges := fun op =>
  ⟨toNat_fieldNNN op, toNat_fieldX op, toNat_fieldY op, toNat_fieldKK op, toNat_fieldN op, toNat_fieldTop op⟩

/-! ### Decoding an encoding (30_encoding.md R101) -/

/-- The decoder dispatches on the fields that the encoder packed. -/
@[simp] theorem decode_encode (i : Instr) : decode (encode i) = .instr i := by
  cases i with
  | cls | ret => decide
  | ldReg | orReg | andReg | xorReg | addReg | subReg | shr | subn | shl => simp [encode, decode, decode8]
  | skp | sknp => simp [encode, decode, decodeE]
  | ldVxDT | ldVxK | ldDT | ldST | addI | ldF | ldB | storeRegs | loadRegs => simp [encode, decode, decodeF]
  | _ => simp [encode, decode]

/-- Settles O3: it is `decode_encode`. -/
theorem decodeOfEncodeIsTheInstruction : Obligations.DecodeOfEncodeIsTheInstruction := decode_encode

/-- Settles O2: the legal words are the encodings of their instructions, and the illegal ones are computed. -/
theorem writtenOutWordsDecode : Obligations.WrittenOutWordsDecode :=
  ⟨decode_encode .cls, decode_encode .ret, decode_encode (.seReg 1 2), decode_encode (.sneReg 1 2),
    decode_encode (.addReg 1 2), decode_encode (.shl 1 2), decode_encode (.jpV0 0xABC), decode_encode (.drw 1 2 0xF),
    decode_encode (.skp 1), decode_encode (.ldVxK 1), decode_encode (.ldB 1), decode_encode (.loadRegs 1), by decide⟩

/-! ### Packing a word from its own fields, some of them known (30_encoding.md R91) -/

theorem packNNN_of_top {op : Word} {top : Nibble} (h : fieldTop op = top) : packNNN top (fieldNNN op) = op :=
  h ▸ packNNN_fields op

theorem packXKK_of_top {op : Word} {top : Nibble} (h : fieldTop op = top) :
    packXKK top (fieldX op) (fieldKK op) = op :=
  h ▸ packXKK_fields op

theorem packXKK_of_top_low {op : Word} {top : Nibble} {kk : Byte} (h : fieldTop op = top) (low : fieldKK op = kk) :
    packXKK top (fieldX op) kk = op :=
  low ▸ packXKK_of_top h

theorem packXYN_of_top {op : Word} {top : Nibble} (h : fieldTop op = top) :
    packXYN top (fieldX op) (fieldY op) (fieldN op) = op :=
  h ▸ packXYN_fields op

theorem packXYN_of_top_low {op : Word} {top n : Nibble} (h : fieldTop op = top) (low : fieldN op = n) :
    packXYN top (fieldX op) (fieldY op) n = op :=
  low ▸ packXYN_of_top h

/-! ### What an answer of the decoder says of its word -/

/-- A word is illegal for this reason (30_encoding.md R103). -/
def Illegal.Covers (op : Word) : Illegal → Prop
  | .top0 => fieldTop op = 0x0 ∧ op ≠ 0x00E0 ∧ op ≠ 0x00EE
  | .top5 => fieldTop op = 0x5 ∧ fieldN op ≠ 0
  | .top8 => fieldTop op = 0x8 ∧ fieldN op ∉ [0x0, 0x1, 0x2, 0x3, 0x4, 0x5, 0x6, 0x7, 0xE]
  | .top9 => fieldTop op = 0x9 ∧ fieldN op ≠ 0
  | .topE => fieldTop op = 0xE ∧ fieldKK op ≠ 0x9E ∧ fieldKK op ≠ 0xA1
  | .topF => fieldTop op = 0xF ∧ fieldKK op ∉ [0x07, 0x0A, 0x15, 0x18, 0x1E, 0x29, 0x33, 0x55, 0x65]
  | .truncated => False

/-- The answer fits the word: an instruction that encodes to it, or a reason that covers it. -/
def Decoded.Fits (op : Word) : Decoded → Prop
  | .instr i => encode i = op
  | .illegal why => why.Covers op

/-- A conditional answer fits when both of its branches do. -/
theorem fits_ite {op : Word} {c : Prop} [Decidable c] {d e : Decoded} (pos : c → d.Fits op)
    (neg : ¬c → e.Fits op) : (if c then d else e).Fits op :=
  iteInduction pos neg

theorem decode0_fits {op : Word} (top : fieldTop op = 0x0) : (decode0 op).Fits op :=
  fits_ite Eq.symm fun notCls => fits_ite Eq.symm fun notRet => ⟨top, notCls, notRet⟩

theorem decode8_fits {op : Word} (top : fieldTop op = 0x8) :
    (decode8 (fieldX op) (fieldY op) (fieldN op)).Fits op := by
  unfold decode8
  iterate 9 refine fits_ite (packXYN_of_top_low top) fun _ => ?_
  exact ⟨top, by simp_all⟩

theorem decodeE_fits {op : Word} (top : fieldTop op = 0xE) : (decodeE (fieldX op) (fieldKK op)).Fits op :=
  fits_ite (packXKK_of_top_low top) fun notSkp =>
    fits_ite (packXKK_of_top_low top) fun notSknp => ⟨top, notSkp, notSknp⟩

theorem decodeF_fits {op : Word} (top : fieldTop op = 0xF) : (decodeF (fieldX op) (fieldKK op)).Fits op := by
  unfold decodeF
  iterate 9 refine fits_ite (packXKK_of_top_low top) fun _ => ?_
  exact ⟨top, by simp_all⟩

/-- Each branch of the decoder knows the fields that its instruction packs again, or the reason's. -/
theorem decode_fits (op : Word) : (decode op).Fits op := by
  unfold decode
  refine fits_ite decode0_fits fun _ => ?_
  -- 1NNN, 2NNN
  iterate 2 refine fits_ite packNNN_of_top fun _ => ?_
  -- 3XKK, 4XKK
  iterate 2 refine fits_ite packXKK_of_top fun _ => ?_
  -- 5XY0
  refine fits_ite (fun top => fits_ite (packXYN_of_top_low top) fun low => ⟨top, low⟩) fun _ => ?_
  -- 6XKK, 7XKK
  iterate 2 refine fits_ite packXKK_of_top fun _ => ?_
  refine fits_ite decode8_fits fun _ => ?_
  -- 9XY0
  refine fits_ite (fun top => fits_ite (packXYN_of_top_low top) fun low => ⟨top, low⟩) fun _ => ?_
  -- ANNN, BNNN
  iterate 2 refine fits_ite packNNN_of_top fun _ => ?_
  -- CXKK
  refine fits_ite packXKK_of_top fun _ => ?_
  -- DXYN
  refine fits_ite packXYN_of_top fun _ => ?_
  refine fits_ite decodeE_fits fun _ => ?_
  have topF : fieldTop op = 0xF := by bv_omega
  exact decodeF_fits topF

/-- Settles O4: an instruction as an answer fits its word only by encoding to it. -/
theorem encodeOfTheDecodedIsTheWord : Obligations.EncodeOfTheDecodedIsTheWord := by
  intro op i h
  have fits := decode_fits op
  rwa [h] at fits

/-! ### The opcode map (30_encoding.md R100) -/

/-- The opcode map has a row for every instruction, and no other rows. -/
theorem mem_opcodeMap_iff {r : OpRow} : r ∈ opcodeMap ↔ ∃ i : Instr, i.row = r := by
  constructor
  · simp only [opcodeMap, List.mem_append, List.mem_map]
    rintro (((⟨i, -, h⟩ | ⟨i, -, h⟩) | ⟨i, -, h⟩) | ⟨i, -, h⟩) <;> exact ⟨i, h⟩
  · rintro ⟨i, rfl⟩
    cases i <;> simp [opcodeMap, Instr.row]

section
open Laws.EncodesItsRow

theorem encode_matches_row (i : Instr) : i.row.matches (encode i) := by
  cases i with
  | cls => exact cls
  | ret => exact ret
  | jp | call | ldI | jpV0 => exact packNNN_top ..
  | seImm | sneImm | ldImm | addImm | rnd => exact packXKK_top ..
  | drw => exact packXYN_top ..
  | skp | sknp | ldVxDT | ldVxK | ldDT | ldST | addI | ldF | ldB | storeRegs | loadRegs => exact packXKK_top_low ..
  | _ => exact packXYN_top_low ..

theorem fieldTop_of_masked {op : Word} {top : Nibble} (h : op &&& 0xF000 = packNNN top 0) : fieldTop op = top := by
  rw [← packNNN_fields op, packNNN_top] at h
  simpa using congrArg fieldTop h

theorem packXKK_of_masked {op : Word} {top : Nibble} {kk : Byte} (h : op &&& 0xF0FF = packXKK top 0 kk) :
    packXKK top (fieldX op) kk = op := by
  have e : packXKK (fieldTop op) 0 (fieldKK op) = packXKK top 0 kk := by
    rw [← h, ← packXKK_top_low _ (fieldX op), packXKK_fields]
  exact packXKK_of_top_low (by simpa using congrArg fieldTop e) (by simpa using congrArg fieldKK e)

theorem packXYN_of_masked {op : Word} {top n : Nibble} (h : op &&& 0xF00F = packXYN top 0 0 n) :
    packXYN top (fieldX op) (fieldY op) n = op := by
  have e : packXYN (fieldTop op) 0 0 (fieldN op) = packXYN top 0 0 n := by
    rw [← h, ← packXYN_top_low _ (fieldX op) (fieldY op), packXYN_fields]
  exact packXYN_of_top_low (by simpa using congrArg fieldTop e) (by simpa using congrArg fieldN e)

end

/-- The instruction of the same row whose operands are the fields of a word. -/
def Instr.withFields (op : Word) : Instr → Instr
  | .cls => .cls
  | .ret => .ret
  | .jp _ => .jp (fieldNNN op)
  | .call _ => .call (fieldNNN op)
  | .seImm _ _ => .seImm (fieldX op) (fieldKK op)
  | .sneImm _ _ => .sneImm (fieldX op) (fieldKK op)
  | .seReg _ _ => .seReg (fieldX op) (fieldY op)
  | .ldImm _ _ => .ldImm (fieldX op) (fieldKK op)
  | .addImm _ _ => .addImm (fieldX op) (fieldKK op)
  | .ldReg _ _ => .ldReg (fieldX op) (fieldY op)
  | .orReg _ _ => .orReg (fieldX op) (fieldY op)
  | .andReg _ _ => .andReg (fieldX op) (fieldY op)
  | .xorReg _ _ => .xorReg (fieldX op) (fieldY op)
  | .addReg _ _ => .addReg (fieldX op) (fieldY op)
  | .subReg _ _ => .subReg (fieldX op) (fieldY op)
  | .shr _ _ => .shr (fieldX op) (fieldY op)
  | .subn _ _ => .subn (fieldX op) (fieldY op)
  | .shl _ _ => .shl (fieldX op) (fieldY op)
  | .sneReg _ _ => .sneReg (fieldX op) (fieldY op)
  | .ldI _ => .ldI (fieldNNN op)
  | .jpV0 _ => .jpV0 (fieldNNN op)
  | .rnd _ _ => .rnd (fieldX op) (fieldKK op)
  | .drw _ _ _ => .drw (fieldX op) (fieldY op) (fieldN op)
  | .skp _ => .skp (fieldX op)
  | .sknp _ => .sknp (fieldX op)
  | .ldVxDT _ => .ldVxDT (fieldX op)
  | .ldVxK _ => .ldVxK (fieldX op)
  | .ldDT _ => .ldDT (fieldX op)
  | .ldST _ => .ldST (fieldX op)
  | .addI _ => .addI (fieldX op)
  | .ldF _ => .ldF (fieldX op)
  | .ldB _ => .ldB (fieldX op)
  | .storeRegs _ => .storeRegs (fieldX op)
  | .loadRegs _ => .loadRegs (fieldX op)

@[simp] theorem row_withFields (op : Word) (i : Instr) : (i.withFields op).row = i.row := by cases i <;> rfl

/-- A row's mask and match fix the fields that are no operands, so the operands are the rest of the word. -/
theorem encode_withFields {op : Word} {i : Instr} (h : i.row.matches op) : encode (i.withFields op) = op := by
  cases i with
  | cls | ret => exact h.symm.trans BitVec.and_allOnes
  | jp | call | ldI | jpV0 => exact packNNN_of_top (fieldTop_of_masked h)
  | seImm | sneImm | ldImm | addImm | rnd => exact packXKK_of_top (fieldTop_of_masked h)
  | drw => exact packXYN_of_top (fieldTop_of_masked h)
  | skp | sknp | ldVxDT | ldVxK | ldDT | ldST | addI | ldF | ldB | storeRegs | loadRegs => exact packXKK_of_masked h
  | _ => exact packXYN_of_masked h

/-- A word that a row matches decodes to the instruction of that row with the word's fields. -/
theorem decode_of_matches {op : Word} {i : Instr} (h : i.row.matches op) : decode op = .instr (i.withFields op) := by
  rw [← decode_encode, encode_withFields h]

/-- The rows are disjoint: a word decodes to one instruction only. -/
theorem row_eq_of_matches {op : Word} {i j : Instr} (hi : i.row.matches op) (hj : j.row.matches op) :
    i.row = j.row := by
  have same : i.withFields op = j.withFields op := by
    simpa using (decode_of_matches hi).symm.trans (decode_of_matches hj)
  rw [← row_withFields op i, same, row_withFields]

theorem row_matches_of_decode {op : Word} {i : Instr} (h : decode op = .instr i) : i.row.matches op :=
  encodeOfTheDecodedIsTheWord op i h ▸ encode_matches_row i

/-- Settles O5: every row is an instruction's, and a row matches exactly the encodings of its instructions. -/
theorem decodeAcceptsExactlyTheOpcodeMap : Obligations.DecodeAcceptsExactlyTheOpcodeMap := by
  refine ⟨fun op => ⟨?_, ?_⟩, ?_, ?_⟩
  · rintro ⟨i, h⟩
    exact ⟨i.row, mem_opcodeMap_iff.mpr ⟨i, rfl⟩, row_matches_of_decode h⟩
  · rintro ⟨r, mem, h⟩
    obtain ⟨i, rfl⟩ := mem_opcodeMap_iff.mp mem
    exact ⟨_, decode_of_matches h⟩
  · intro op i h
    exact ⟨mem_opcodeMap_iff.mpr ⟨i, rfl⟩, row_matches_of_decode h⟩
  · intro op r mem r' mem' h h'
    obtain ⟨i, rfl⟩ := mem_opcodeMap_iff.mp mem
    obtain ⟨j, rfl⟩ := mem_opcodeMap_iff.mp mem'
    exact row_eq_of_matches h h'

/-! ### The illegal words (30_encoding.md R103) -/

/-- The reasons of R103 exclude every secondary selector that the decoder accepts. -/
theorem decode_of_covers {op : Word} {why : Illegal} (h : why.Covers op) : decode op = .illegal why := by
  cases why with
  | top0 => simp_all [Illegal.Covers, decode, decode0]
  | top5 | top9 => simp_all [Illegal.Covers, decode]
  | top8 => simp_all [Illegal.Covers, decode, decode8]
  | topE => simp_all [Illegal.Covers, decode, decodeE]
  | topF => simp_all [Illegal.Covers, decode, decodeF]
  | truncated => exact h.elim

theorem decode_eq_illegal_iff {op : Word} {why : Illegal} : decode op = .illegal why ↔ why.Covers op := by
  refine ⟨fun h => ?_, decode_of_covers⟩
  have fits := decode_fits op
  rwa [h] at fits

theorem fieldTop_eq_iff {op : Word} {top : Nibble} : fieldTop op = top ↔ op.toNat / 4096 = top.toNat := by
  rw [← BitVec.toNat_inj, toNat_fieldTop]

theorem fieldN_eq_iff {op : Word} {n : Nibble} : fieldN op = n ↔ op.toNat % 16 = n.toNat := by
  rw [← BitVec.toNat_inj, toNat_fieldN]

theorem fieldKK_eq_iff {op : Word} {kk : Byte} : fieldKK op = kk ↔ op.toNat % 256 = kk.toNat := by
  rw [← BitVec.toNat_inj, toNat_fieldKK]

theorem covers_top0_iff {op : Word} :
    Illegal.top0.Covers op ↔ op.toNat / 4096 = 0x0 ∧ op.toNat ≠ 0x00E0 ∧ op.toNat ≠ 0x00EE := by
  simp [Illegal.Covers, fieldTop_eq_iff, BitVec.toNat_eq (x := op)]

theorem covers_top5_iff {op : Word} : Illegal.top5.Covers op ↔ op.toNat / 4096 = 0x5 ∧ op.toNat % 16 ≠ 0 := by
  simp [Illegal.Covers, fieldTop_eq_iff, fieldN_eq_iff]

theorem covers_top9_iff {op : Word} : Illegal.top9.Covers op ↔ op.toNat / 4096 = 0x9 ∧ op.toNat % 16 ≠ 0 := by
  simp [Illegal.Covers, fieldTop_eq_iff, fieldN_eq_iff]

theorem covers_top8_iff {op : Word} :
    Illegal.top8.Covers op ↔ op.toNat / 4096 = 0x8 ∧ op.toNat % 16 ≥ 8 ∧ op.toNat % 16 ≠ 0xE := by
  simp only [Illegal.Covers, BitVec.ofNat_eq_ofNat, fieldTop_eq_iff, BitVec.toNat_ofNat, Nat.reducePow,
    Nat.reduceMod, List.mem_cons, fieldN_eq_iff, List.not_mem_nil, or_false, not_or]
  omega

theorem covers_topE_iff {op : Word} :
    Illegal.topE.Covers op ↔ op.toNat / 4096 = 0xE ∧ op.toNat % 256 ≠ 0x9E ∧ op.toNat % 256 ≠ 0xA1 := by
  simp [Illegal.Covers, fieldTop_eq_iff, fieldKK_eq_iff]

theorem covers_topF_iff {op : Word} :
    Illegal.topF.Covers op ↔ op.toNat / 4096 = 0xF ∧
      op.toNat % 256 ∉ [0x07, 0x0A, 0x15, 0x18, 0x1E, 0x29, 0x33, 0x55, 0x65] := by
  simp [Illegal.Covers, fieldTop_eq_iff, fieldKK_eq_iff]

theorem exists_covers_iff {op : Word} :
    (∃ why : Illegal, why.Covers op) ↔
      Illegal.top0.Covers op ∨ (Illegal.top5.Covers op ∨ Illegal.top9.Covers op) ∨
      Illegal.top8.Covers op ∨ Illegal.topE.Covers op ∨ Illegal.topF.Covers op := by
  constructor
  · rintro ⟨why, h⟩
    cases why with
    | top0 => exact .inl h
    | top5 => exact .inr (.inl (.inl h))
    | top9 => exact .inr (.inl (.inr h))
    | top8 => exact .inr (.inr (.inl h))
    | topE => exact .inr (.inr (.inr (.inl h)))
    | topF => exact .inr (.inr (.inr (.inr h)))
    | truncated => exact h.elim
  · rintro (h | (h | h) | h | h | h) <;> exact ⟨_, h⟩

/-- Settles O6: the decoder refuses a word for the reasons that cover it, and each reason is an entry of the list. -/
theorem illegalWordsByTopNibble : Obligations.IllegalWordsByTopNibble := by
  intro op
  simp only [decode_eq_illegal_iff]
  rw [exists_covers_iff, covers_top0_iff, covers_top5_iff, covers_top9_iff, covers_top8_iff, covers_topE_iff,
    covers_topF_iff, or_and_right]

end Sys2Proof

/-! An illegal word in a Cycle (30_encoding.md R102). -/

namespace Sys2Proof.Machine

/-- The decode check of a Cycle (60_exceptions.md R265). -/
theorem cycle_of_illegal {s : State} {op : Word} {why : Illegal} (fetched : s.fetch = some op)
    (h : decode op = .illegal why) : cycle s = .next (s.raise .decodeError op 0) := by
  simp [cycle, fetched, h]

/-- Settles O11: a step that begins a Cycle performs it, and the Cycle raises `DecodeError`. -/
theorem illegalWordHalts : Obligations.IllegalWordHalts := by
  intro s s' op why begins pc word illegal
  have fetched : s'.fetch = some op := word ▸ fetch_eq_some pc
  rw [step_of_beginsCycle begins, cycle_of_illegal fetched illegal]
  exact raise_haltsWith ..

end Sys2Proof.Machine

/-! The Cycle: what runs in it, when none begins, the fetch range check, and that the invariant leaves no step without a
next state (40_cycle.md R120 to R126). -/

namespace Sys2Proof.Machine

/-! ### One Cycle -/

/-- A Cycle that fetches a legal word is its instruction (40_cycle.md R124). -/
theorem cycle_of_instr {s : State} {op : Word} {i : Instr} (fetched : s.fetch = some op) (h : decode op = .instr i) :
    cycle s = exec i s := by
  simp [cycle, fetched, h]

/-- The fetch check of a Cycle (60_exceptions.md R265). -/
theorem cycle_of_fetch_none {s : State} (h : s.fetch = none) : cycle s = .next (s.raise .pcOutOfRange 0 0) := by
  simp [cycle, h]

theorem cycleEnabled_iff (s : State) :
    s.cycleEnabled = true ↔ s.alive = true ∧ s.halted = false ∧ s.paused = false := by
  simp [State.cycleEnabled, and_assoc]

/-- Settles O7: a free-running Cycle begins, and it runs the instruction that the fetched word decodes to. -/
theorem stepRunsTheDecodedInstruction : Obligations.StepRunsTheDecodedInstruction := by
  intro s i noEvent alive running unpaused pc decoded
  have begins : BeginsCycle s s := ⟨alive, running, .inl ⟨noEvent, rfl, unpaused⟩⟩
  rw [step_of_beginsCycle begins, cycle_of_instr (fetch_eq_some pc) decoded]

/-- Settles O9: with no event listed a step is a free-running Cycle, which is not enabled. -/
theorem nothingRunsUnlessACycleIsEnabled : Obligations.NothingRunsUnlessACycleIsEnabled := by
  intro s noEvent off
  have disabled : ¬s.cycleEnabled = true := by
    rw [cycleEnabled_iff]
    rintro ⟨alive, running, unpaused⟩
    simp [alive, running, unpaused] at off
  rw [step_of_no_event noEvent, if_neg disabled]

/-- Settles O10: a step that begins a Cycle performs it, and the Cycle raises `PcOutOfRange`. -/
theorem fetchBeyondMemoryHalts : Obligations.FetchBeyondMemoryHalts := by
  intro s s' begins pc
  rw [step_of_beginsCycle begins, cycle_of_fetch_none (fetch_eq_none pc)]
  exact raise_haltsWith ..

/-! ### Where the model answers a next state -/

/-- With SP in its legal range (10_state.md R26) the entry that RET pops exists. -/
theorem execRet_answers {s : State} (sp : s.sp.toNat ≤ 16) : ∃ t, execRet s = .next t := by
  unfold execRet
  split
  · exact ⟨_, rfl⟩
  · rw [dif_pos (by omega)]
    exact ⟨_, rfl⟩

/-- CALL completes, or raises with all 16 entries in use (41_control_flow.md R141). -/
theorem execCall_answers (nnn : Addr12) (s : State) : ∃ t, execCall nnn s = .next t := by
  unfold execCall
  split <;> exact ⟨_, rfl⟩

/-- RET is the one instruction that can stop the model, and it does not with SP in its legal range (log 9). -/
theorem exec_answers (i : Instr) {s : State} (sp : s.sp.toNat ≤ 16) : ∃ t, exec i s = .next t := by
  cases i with
  | ret => exact execRet_answers sp
  | call nnn => exact execCall_answers nnn s
  | _ => exact ⟨_, rfl⟩

/-- A Cycle's own checks raise, and a raise is a next state (60_exceptions.md R262). -/
theorem cycle_answers {s : State} (sp : s.sp.toNat ≤ 16) : ∃ t, cycle s = .next t := by
  obtain ⟨-, e⟩ | ⟨_, _, -, -, e⟩ | ⟨_, i, -, -, e⟩ := cycle_cases s
  · exact ⟨_, e⟩
  · exact ⟨_, e⟩
  · rw [e]
    exact exec_answers i sp

theorem cycle_if_answers {s : State} (enabled : Bool) (sp : s.sp.toNat ≤ 16) :
    ∃ t, (if enabled then cycle s else .next s) = .next t := by
  split
  · exact cycle_answers sp
  · exact ⟨_, rfl⟩

/-- Of the events only the two that perform a Cycle could stop the model. -/
theorem perform_answers (e : Event) {s : State} (sp : s.sp.toNat ≤ 16) : ∃ t, perform e s = .next t := by
  cases e with
  | cycle | step => exact cycle_if_answers _ sp
  | _ => exact ⟨_, rfl⟩

/-- Settles O58: the invariant keeps SP in its legal range, and taking an event off the list does not move SP. -/
theorem everyStepFromTheInvariantAnswersNext : Obligations.EveryStepFromTheInvariantAnswersNext := by
  intro s inv
  obtain ⟨sp, -⟩ := inv.stack
  obtain ⟨-, e⟩ | ⟨event, es, -, e⟩ := step_performs s <;> rw [e]
  · exact perform_answers .cycle sp
  · exact perform_answers event (s := { s with events := es }) sp

end Sys2Proof.Machine

/-! Control transfer: where PC goes, what the stack keeps, and the frames (41_control_flow.md R140 to R148). -/

namespace Sys2Proof.Machine

/-! ### Frames -/

/-- `writtenParts` read as a frame: a completed cycle leaves every other part unchanged, the registers too where it kept
them. -/
theorem unchangedExcept_of_writes {i : Instr} {s t : State} {ps : List Part} (writes : t = s.withWrites i t)
    (listed : .pc :: .drewThisCycle :: writtenParts i ⊆ ps) (regs : .v ∈ ps ∨ t.v = s.v) : UnchangedExcept ps s t := by
  intro p unlisted
  have unwritten : p ∉ .pc :: .drewThisCycle :: writtenParts i := fun h => unlisted (listed h)
  have held : holderOf i s t p = s := if_neg (List.not_mem_of_not_mem_cons (List.not_mem_of_not_mem_cons unwritten))
  cases p with
  | v => intro r; simp only [State.reg, regs.resolve_left unlisted]
  | pc | drewThisCycle => simp at unwritten
  | mem => intro a; rw [writes]; simp only [State.byteAt, State.withWrites, held]
  | fb => intro px py; rw [writes]; simp only [State.withWrites, held]
  | i | frameDirty | sp | stack | dt | st | outputs | waitKey | draws =>
    rw [writes]; simp only [Unchanged, State.withWrites, held]
  | haltRecord => rw [writes]; exact ⟨rfl, rfl, rfl, rfl⟩
  | _ => rw [writes]; rfl

/-- A cycle that gives PC a value and does nothing else writes no more than a jump does (41_control_flow.md R140). -/
theorem setPc_frame (s : State) (pc : Word) :
    UnchangedExcept [.pc, .drewThisCycle] s { s.beginCycle with pc := pc } :=
  unchangedExcept_of_writes (i := .jp 0) rfl (List.Subset.refl _) (.inr rfl)

/-! ### Jumps -/

/-- Settles O12: PC takes nnn. -/
theorem jumpSetsPc : Obligations.JumpSetsPc := fun s nnn =>
  ⟨encode_matches_row (.jp nnn), _, rfl, BitVec.toNat_setWidth_of_le (by decide), rfl, setPc_frame s _⟩

/-- Settles O13: the sum stays below 2 ^ 16, so the 16-bit addition does not wrap. -/
theorem jumpWithOffsetAddsV0 : Obligations.JumpWithOffsetAddsV0 := by
  intro s nnn
  have sum : (nnn.setWidth 16 + (s.reg 0).setWidth 16).toNat = nnn.toNat + (s.reg 0).toNat := by bv_omega
  exact ⟨encode_matches_row (.jpV0 nnn), _, rfl, sum, rfl, setPc_frame s _⟩

/-! ### Call and return -/

/-- CALL with a free entry (R141). -/
theorem exec_call_of_room (nnn : Addr12) {s : State} (room : s.sp.toNat < 16) :
    exec (.call nnn) s = .next { s.beginCycle with
      stack := s.stack.set s.sp.toNat (s.pc + 2) room, sp := s.sp + 1, pc := nnn.setWidth 16 } :=
  dif_pos room

/-- CALL with all 16 entries in use (R141). -/
theorem exec_call_of_full (nnn : Addr12) {s : State} (full : 16 ≤ s.sp.toNat) :
    exec (.call nnn) s = .next (s.raise .stackOverflow (encode (.call nnn)) 0) :=
  dif_neg (Nat.not_lt.mpr full)

/-- RET with an entry in use, for SP in its legal range (R142, 10_state.md R26). -/
theorem exec_ret_of_used {s : State} (used : 0 < s.sp.toNat) (top : s.sp.toNat - 1 < 16) :
    exec .ret s = .next { s.beginCycle with sp := s.sp - 1, pc := s.stack[s.sp.toNat - 1] } := by
  have nonzero : s.sp ≠ 0 := by bv_omega
  exact (if_neg nonzero).trans (dif_pos top)

/-- RET on an empty stack (R142). -/
theorem exec_ret_of_empty {s : State} (empty : s.sp.toNat = 0) :
    exec .ret s = .next (s.raise .stackUnderflow (encode .ret) 0) :=
  if_pos (BitVec.eq_of_toNat_eq empty)

/-- Settles O14: CALL completes or overflows by whether SP is below 16. -/
theorem callPushesTheReturnAddress : Obligations.CallPushesTheReturnAddress := by
  refine fun s nnn => ⟨encode_matches_row (.call nnn), fun room => ?_, fun full => ?_⟩
  · have sp : (s.sp + 1).toNat = s.sp.toNat + 1 := by bv_omega
    have others (k : Fin 16) (other : k.val ≠ s.sp.toNat) :
        (s.stack.set s.sp.toNat (s.pc + 2) room)[k] = s.stack[k] := Vector.getElem_set_ne room k.isLt other.symm
    exact ⟨_, exec_call_of_room nnn room, BitVec.toNat_setWidth_of_le (by decide), sp, Vector.getElem?_set_self room,
      others, rfl, unchangedExcept_of_writes (i := .call nnn) rfl (by simp [writtenParts]) (.inr rfl)⟩
  · rw [exec_call_of_full nnn full]
    exact raise_haltsWith ..

/-- Settles O15: RET completes or underflows by whether SP is above 0. -/
theorem returnPopsThePc : Obligations.ReturnPopsThePc := by
  refine ⟨rfl, fun s legal => ⟨fun used => ?_, fun empty => ?_⟩⟩
  · have top : s.sp.toNat - 1 < 16 := by omega
    have sp : (s.sp - 1).toNat = s.sp.toNat - 1 := by bv_omega
    exact ⟨_, exec_ret_of_used used top, sp, Vector.getElem?_eq_getElem top, rfl,
      unchangedExcept_of_writes (i := .ret) rfl (by simp [writtenParts]) (.inr rfl)⟩
  · rw [exec_ret_of_empty empty]
    exact raise_haltsWith ..

/-! ### Skips -/

/-- An instruction that skips on a condition completes, writes PC by the table of R148, and writes nothing else. -/
theorem exec_of_skipIf {i : Instr} {s : State} {c : Bool} (skips : exec i s = .next (s.beginCycle.skipIf c))
    (pc : pcAfter s i = if c then s.pc + 4 else s.pc + 2) :
    ∃ t, exec i s = .next t ∧ t.pc = pcAfter s i ∧ t.drewThisCycle = false ∧
      UnchangedExcept [.pc, .drewThisCycle] s t := by
  refine ⟨_, skips, (skipIf_completes pc).pc, ?_⟩
  rw [skipIf_eq]
  exact ⟨rfl, setPc_frame s _⟩

/-- Settles O17: each of the four skips, on its own row's condition of the table of R148. -/
theorem skipsOnRegisterValues : Obligations.SkipsOnRegisterValues := fun s x y kk =>
  ⟨⟨encode_matches_row (.seImm x kk), exec_of_skipIf rfl (by simp [pcAfter])⟩,
    ⟨encode_matches_row (.sneImm x kk), exec_of_skipIf rfl (by simp [pcAfter])⟩,
    ⟨encode_matches_row (.seReg x y), exec_of_skipIf rfl (by simp [pcAfter])⟩,
    ⟨encode_matches_row (.sneReg x y), exec_of_skipIf rfl (by simp [pcAfter])⟩⟩

/-! ### PC after every cycle -/

/-- Settles O19: a cycle that raises is halted with PC kept; one that completes keeps `Halted` off and writes PC by the
table of R148. -/
theorem pcAfterEveryCycle : Obligations.PcAfterEveryCycle := by
  intro i s t running _ h
  obtain ⟨cause, op, addr, -, rfl⟩ | completes := exec_cases h
  · rw [raise_pc, raise_halted, if_pos rfl]
  · have stillRunning : ¬t.halted = true := by simp [completes.control.halted, running]
    rw [if_neg stillRunning, completes.pc]

end Sys2Proof.Machine

/-! Load, arithmetic, logic, shift and random: results, flags and frames (42_alu.md R160 to R175). -/

namespace Sys2Proof.Machine

/-! ### What each order of writes leaves (42_alu.md R160) -/

/-- A cycle that writes registers and does nothing else writes no more than a load does (42_alu.md R161). -/
theorem setRegisters_frame (s : State) (v : Vector Byte 16) :
    UnchangedExcept [.v, .pc, .drewThisCycle] s { s.beginCycle with v := v } :=
  unchangedExcept_of_writes (i := .ldImm 0 0) rfl (by simp [writtenParts]) (.inl (by simp))

theorem exec_of_setReg {i : Instr} {s : State} {x : RegIdx} {result : Byte}
    (writes : exec i s = .next (s.beginCycle.setReg x result)) :
    ∃ t, exec i s = .next t ∧ t.reg x = result ∧ (∀ r, r ≠ x → t.reg r = s.reg r) ∧ t.pc = s.pc + 2 ∧
      t.drewThisCycle = false ∧ UnchangedExcept [.v, .pc, .drewThisCycle] s t :=
  ⟨_, writes, reg_setReg_same .., fun _ other => reg_setReg_other _ _ other, rfl, rfl, setRegisters_frame s _⟩

theorem exec_of_resultThenZero {i : Instr} {s : State} {x : RegIdx} {result : Byte}
    (writes : exec i s = .next (s.beginCycle.resultThenZero x result)) :
    ∃ t, exec i s = .next t ∧ (x ≠ 0xF → t.reg x = result) ∧ t.reg 0xF = 0 ∧
      (∀ r, r ≠ x → r ≠ 0xF → t.reg r = s.reg r) ∧ t.pc = s.pc + 2 ∧ t.drewThisCycle = false ∧
      UnchangedExcept [.v, .pc, .drewThisCycle] s t := by
  refine ⟨_, writes, fun notVf => ?_, ?_, fun r => reg_resultThenZero_other _ _, rfl, rfl, setRegisters_frame s _⟩
  · rw [reg_resultThenZero, if_neg (show x ≠ vf from notVf), if_pos rfl]
  · exact (reg_resultThenZero ..).trans (if_pos rfl)

/-- "Flag first, result last", with the two values as numbers: with x = 0xF the result stays. -/
theorem exec_of_flagThenResult {i : Instr} {s : State} {x : RegIdx} {flag result : Byte} {f n : Nat}
    (writes : exec i s = .next (s.beginCycle.flagThenResult x flag result)) (hn : result.toNat = n)
    (hf : flag.toNat = f) :
    ∃ t, exec i s = .next t ∧ (t.reg x).toNat = n ∧ (x ≠ 0xF → (t.reg 0xF).toNat = f) ∧
      (∀ r, r ≠ x → r ≠ 0xF → t.reg r = s.reg r) ∧ t.pc = s.pc + 2 ∧ t.drewThisCycle = false ∧
      UnchangedExcept [.v, .pc, .drewThisCycle] s t := by
  refine ⟨_, writes, ?_, fun notVf => ?_, fun r => reg_flagThenResult_other _ _ _, rfl, rfl, setRegisters_frame s _⟩
  · rw [reg_flagThenResult, if_pos rfl, hn]
  · rw [reg_flagThenResult, if_neg notVf.symm, if_pos (show (0xF : RegIdx) = vf from rfl), hf]

/-! ### The flags and results as numbers -/

theorem toNat_flagByte (c : Bool) : (flagByte c).toNat = if c then 1 else 0 := by
  cases c <;> rfl

/-- The carry of R167. -/
theorem toNat_carryFlag (a b : Byte) : (carryFlag a b).toNat = if a.toNat + b.toNat > 255 then 1 else 0 := by
  simp only [carryFlag, toNat_flagByte, decide_eq_true_eq]

/-- The inverted borrow of R168. -/
theorem toNat_noBorrowFlag (a b : Byte) : (noBorrowFlag a b).toNat = if a.toNat ≥ b.toNat then 1 else 0 := by
  simp only [noBorrowFlag, toNat_flagByte, decide_eq_true_eq]

/-- A bit of a byte, as a flag, is a binary digit of its number. -/
theorem toNat_flagByte_getLsbD (a : Byte) (k : Nat) : (flagByte (a.getLsbD k)).toNat = a.toNat / 2 ^ k % 2 := by
  rw [toNat_flagByte, BitVec.getLsbD, Nat.testBit_eq_decide_div_mod_eq]
  simp only [decide_eq_true_eq]
  split <;> omega

/-- Bit 0 is the remainder by 2 (R171). -/
theorem toNat_shrFlag (a : Byte) : (shrFlag a).toNat = a.toNat % 2 := by
  rw [shrFlag, toNat_flagByte_getLsbD, Nat.pow_zero, Nat.div_one]

/-- Bit 7 is the quotient by 128 (R173). -/
theorem toNat_shlFlag (a : Byte) : (shlFlag a).toNat = a.toNat / 128 := by
  have := a.isLt
  rw [shlFlag, toNat_flagByte_getLsbD]
  omega

/-- `(a + 256 - b) mod 256` (R168). -/
theorem toNat_byte_sub (a b : Byte) : (a - b).toNat = (a.toNat + 256 - b.toNat) % 256 := by
  bv_omega

theorem toNat_byte_shiftRight_one (a : Byte) : (a >>> 1).toNat = a.toNat / 2 := by
  rw [BitVec.toNat_ushiftRight, Nat.shiftRight_eq_div_pow, Nat.pow_one]

theorem toNat_byte_shiftLeft_one (a : Byte) : (a <<< 1).toNat = a.toNat * 2 % 256 := by
  rw [BitVec.toNat_shiftLeft, Nat.shiftLeft_eq, Nat.pow_one]

/-- The shift operand is the register that `QUIRK_SHIFT_SOURCE` selects (R170). -/
theorem shiftOperand_eq {source : ShiftSource} {vx vy a : Byte} (inPlace : source = .vxInPlace → a = vx)
    (copy : source = .vyCopy → a = vy) : shiftOperand source vx vy = a := by
  cases source with
  | vxInPlace => exact (inPlace rfl).symm
  | vyCopy => exact (copy rfl).symm

/-! ### The instructions -/

/-- Settles O20: each load is one register write. -/
theorem loadWritesOnlyVx : Obligations.LoadWritesOnlyVx := fun _ x y kk =>
  ⟨⟨encode_matches_row (.ldImm x kk), exec_of_setReg rfl⟩, ⟨encode_matches_row (.ldReg x y), exec_of_setReg rfl⟩⟩

/-- Settles O21: one register write, of a sum that wraps as `BitVec` addition does. -/
theorem addImmediateWrapsAndLeavesVf : Obligations.AddImmediateWrapsAndLeavesVf := by
  intro s x kk
  obtain ⟨t, next, sum, rest⟩ := exec_of_setReg (i := .addImm x kk) (s := s) rfl
  exact ⟨encode_matches_row (.addImm x kk), t, next, by rw [sum, BitVec.toNat_add], rest⟩

/-- Settles O22: the three write their result first and 0 last. -/
theorem logicLeavesVfZero : Obligations.LogicLeavesVfZero := fun _ x y =>
  ⟨⟨encode_matches_row (.orReg x y), exec_of_resultThenZero rfl⟩,
    ⟨encode_matches_row (.andReg x y), exec_of_resultThenZero rfl⟩,
    ⟨encode_matches_row (.xorReg x y), exec_of_resultThenZero rfl⟩⟩

/-- Settles O23: the carry is written first and the sum last. -/
theorem addSetsCarry : Obligations.AddSetsCarry := fun _ x y =>
  ⟨encode_matches_row (.addReg x y), exec_of_flagThenResult rfl (BitVec.toNat_add ..) (toNat_carryFlag ..)⟩

/-- Settles O24: the two differ in the order of their operands. -/
theorem subtractSetsNoBorrow : Obligations.SubtractSetsNoBorrow := fun _ x y =>
  ⟨⟨encode_matches_row (.subReg x y), exec_of_flagThenResult rfl (toNat_byte_sub ..) (toNat_noBorrowFlag ..)⟩,
    ⟨encode_matches_row (.subn x y), exec_of_flagThenResult rfl (toNat_byte_sub ..) (toNat_noBorrowFlag ..)⟩⟩

/-- Settles O25: whatever the parameter selects, both shift that operand and write the bit shifted out first. -/
theorem shiftsFollowTheShiftSource : Obligations.ShiftsFollowTheShiftSource := by
  intro s x y a inPlace copy
  obtain rfl := shiftOperand_eq inPlace copy
  exact ⟨⟨encode_matches_row (.shr x y),
      exec_of_flagThenResult rfl (toNat_byte_shiftRight_one _) (toNat_shrFlag _)⟩,
    ⟨encode_matches_row (.shl x y), exec_of_flagThenResult rfl (toNat_byte_shiftLeft_one _) (toNat_shlFlag _)⟩⟩

/-- Settles O26: whatever byte is drawn, the mask clears every bit that kk lacks. -/
theorem randomIsADrawnByteAndKk : Obligations.RandomIsADrawnByteAndKk := by
  intro s x kk
  have drawn : (s.beginCycle.setReg x (Config.drawByte s.draws &&& kk)).reg x = Config.drawByte s.draws &&& kk :=
    reg_setReg_same ..
  have masked : Config.drawByte s.draws &&& kk &&& ~~~kk = 0 := by
    rw [BitVec.and_assoc, BitVec.and_not_self]
    exact BitVec.and_zero
  exact ⟨encode_matches_row (.rnd x kk), _, rfl, drawn, (congrArg (· &&& ~~~kk) drawn).trans masked, rfl,
    fun _ other => reg_setReg_other _ _ other, rfl, rfl,
    unchangedExcept_of_writes (i := .rnd x kk) rfl (by simp [writtenParts]) (.inl (by simp))⟩

end Sys2Proof.Machine

/-! The index register and memory: ANNN, FX1E, FX29, FX33, FX55 and FX65, completed or out of range (43_index_memory.md
R190 to R195). -/

namespace Sys2Proof.Machine

/-! ### The index register alone (R190 to R192) -/

/-- Settles O28: nnn fits in a word, and FX1E's addition wraps as `BitVec` addition does. -/
theorem indexIsLoadedAndAddedTo : Obligations.IndexIsLoadedAndAddedTo := by
  intro s nnn x
  have loaded : (nnn.setWidth 16).toNat = nnn.toNat := BitVec.toNat_setWidth_of_le (by decide)
  have sum : (s.i + (s.reg x).setWidth 16).toNat = (s.i.toNat + (s.reg x).toNat) % 65536 := by bv_omega
  exact ⟨⟨encode_matches_row (.ldI nnn), _, rfl, loaded, rfl, rfl,
      unchangedExcept_of_writes (i := .ldI nnn) rfl (by simp [writtenParts]) (.inr rfl)⟩,
    ⟨encode_matches_row (.addI x), _, rfl, sum, rfl, rfl,
      unchangedExcept_of_writes (i := .addI x) rfl (by simp [writtenParts]) (.inr rfl)⟩⟩

/-- FX29 of a hex digit (R192). -/
theorem exec_ldF_of_digit {s : State} {x : RegIdx} (digit : (s.reg x).toNat ≤ 0x0F) :
    exec (.ldF x) s = .next { s.beginCycle with i := glyphAddr (s.reg x) } :=
  congrArg Host.Outcome.next (if_pos digit)

/-- FX29 above 0x0F, where the index is drawn (R192). -/
theorem exec_ldF_of_draw {s : State} {x : RegIdx} (above : 0x0F < (s.reg x).toNat) :
    exec (.ldF x) s = .next { s.beginCycle with i := Config.drawWord s.draws, draws := s.draws + 1 } :=
  congrArg Host.Outcome.next (if_neg (Nat.not_le.mpr above))

/-- The address of a glyph does not wrap, whatever the byte is. -/
theorem toNat_glyphAddr (d : Byte) : (glyphAddr d).toNat = 5 * d.toNat := by
  rw [glyphAddr, BitVec.toNat_ofNat]
  omega

/-- Settles O29: FX29 points at a glyph or draws by whether V[x] is a hex digit. -/
theorem fontPointerOrDraw : Obligations.FontPointerOrDraw := by
  refine fun s x => ⟨encode_matches_row (.ldF x), ?_⟩
  rcases Nat.lt_or_ge 0x0F (s.reg x).toNat with above | digit
  · exact ⟨_, exec_ldF_of_draw above, fun digit => absurd above (Nat.not_lt.mpr digit), fun _ => ⟨rfl, rfl⟩, rfl, rfl,
      unchangedExcept_of_writes (i := .ldF x) rfl (by simp [writtenParts]) (.inr rfl)⟩
  · exact ⟨_, exec_ldF_of_digit digit, fun _ => ⟨toNat_glyphAddr _, rfl⟩,
      fun above => absurd above (Nat.not_lt.mpr digit), rfl, rfl,
      unchangedExcept_of_writes (i := .ldF x) rfl (by simp [writtenParts]) (.inr rfl)⟩

/-! ### The range check (R193 to R195, 60_exceptions.md R261) -/

/-- A range-checked instruction completes when every address it touches exists. -/
theorem exec_of_inRange {i : Instr} {n : Nat} {s t : State} (checked : exec i s = .next (checkRange i n s t))
    (inRange : s.i.toNat + n ≤ 0x1000) : exec i s = .next t :=
  checked.trans (congrArg Host.Outcome.next (checkRange_of_inRange i t inRange))

/-- A range-checked instruction halts when the last of the `n + 1` addresses it touches does not exist. -/
theorem exec_haltsWith_of_outOfRange {i : Instr} {n : Nat} {s t : State}
    (checked : exec i s = .next (checkRange i (n + 1) s t)) (beyond : s.i.toNat + n > 0x0FFF) :
    HaltsWith (exec i s) s .memOutOfRange (encode i) (BitVec.ofNat 16 (max s.i.toNat 0x1000)) := by
  have out : outOfRange s.i (n + 1) = true := decide_eq_true ⟨Nat.succ_pos n, beyond⟩
  rw [checked, checkRange, if_pos out, ← lowestOutOfRange_eq]
  exact raise_haltsWith ..

/-! ### FX33 (R193) -/

/-- Settles O30: what FX33 leaves at each address is known when it completes, and each digit fits in a byte. -/
theorem decimalDigitsAreStored : Obligations.DecimalDigitsAreStored := by
  refine fun s x hm => ⟨encode_matches_row (.ldB x), fun range => ?_, fun beyond => ?_⟩
  · have next : exec (.ldB x) s = .next (s.beginCycle.storeBytes s.i.toNat (decimalDigits (s.reg x))) :=
      exec_of_inRange rfl (by omega)
    have stored := byteAt_execLdB hm range next
    have byte : (s.reg x).toNat < 256 := (s.reg x).isLt
    refine ⟨_, next, ?hundreds, ?tens, ?ones, fun a outside => ?others, rfl, rfl,
      unchangedExcept_of_writes (i := .ldB x) rfl (by simp [writtenParts]) (.inr rfl)⟩
    case hundreds => rw [stored, if_pos rfl, BitVec.toNat_ofNat]; omega
    case tens => rw [stored, if_neg (by omega), if_pos rfl, BitVec.toNat_ofNat]; omega
    case ones => rw [stored, if_neg (by omega), if_neg (by omega), if_pos rfl, BitVec.toNat_ofNat]; omega
    case others => rw [stored, if_neg (by omega), if_neg (by omega), if_neg (by omega)]
  · exact exec_haltsWith_of_outOfRange rfl beyond

/-! ### FX55 and FX65 (R194, R195) -/

/-- `I` past the registers moved does not wrap when their addresses exist. -/
theorem toNat_index_past {i : Word} {x : RegIdx} (range : i.toNat + x.toNat ≤ 0x0FFF) :
    (i + x.setWidth 16 + 1).toNat = i.toNat + x.toNat + 1 := by
  bv_omega

/-- Settles O31: what FX55 leaves at each address is known when it completes. -/
theorem registersAreStored : Obligations.RegistersAreStored := by
  refine fun s x hm => ⟨encode_matches_row (.storeRegs x), fun range => ?_, fun beyond => ?_⟩
  · have next : exec (.storeRegs x) s = .next
        { s.beginCycle.storeBytes s.i.toNat (s.regsUpTo x) with i := s.i + x.setWidth 16 + 1 } :=
      exec_of_inRange rfl (by omega)
    have stored := byteAt_execStoreRegs hm range next
    refine ⟨_, next, fun r upTo => ?_, fun a outside => ?_, toNat_index_past range, rfl, rfl,
      unchangedExcept_of_writes (i := .storeRegs x) rfl (by simp [writtenParts]) (.inr rfl)⟩
    · rw [stored, if_pos (by omega), Nat.add_sub_cancel_left, BitVec.ofNat_toNat, BitVec.setWidth_eq]
    · rw [stored, if_neg (by omega)]
  · exact exec_haltsWith_of_outOfRange rfl beyond

/-- Loading the `n` bytes from `a` up into the registers from V0 up puts the byte at `a + r` into each V[r] below `n`. -/
theorem getElem_setRegsFrom_bytesAt (v : Vector Byte 16) (s : State) (a : Nat) {n : Nat} {r : RegIdx} (h : r.toNat < n) :
    (setRegsFrom v 0 (s.bytesAt a n))[r.toNat]'r.isLt = s.byteAt (a + r.toNat) := by
  rw [getElem_setRegsFrom, dif_pos ⟨Nat.zero_le _, by simpa [State.bytesAt] using h⟩]
  simp [State.bytesAt]

/-- Settles O32: a completed FX65 loads V[0] to V[x], and none above. -/
theorem registersAreLoaded : Obligations.RegistersAreLoaded := by
  refine fun s x => ⟨encode_matches_row (.loadRegs x), fun range => ?_, fun beyond => ?_⟩
  · have next : exec (.loadRegs x) s = .next { s.beginCycle with
        v := setRegsFrom s.v 0 (s.bytesAt s.i.toNat (x.toNat + 1)), i := s.i + x.setWidth 16 + 1 } :=
      exec_of_inRange rfl (by omega)
    exact ⟨_, next, fun r upTo => getElem_setRegsFrom_bytesAt _ _ _ (Nat.lt_succ_of_le upTo),
      fun r above => execLoadRegs_reg_above next above, toNat_index_past range, rfl, rfl,
      unchangedExcept_of_writes (i := .loadRegs x) rfl (by simp [writtenParts]) (.inl (by simp))⟩
  · exact exec_haltsWith_of_outOfRange rfl beyond

end Sys2Proof.Machine

/-! Display: sprites as sets of toggled pixels, and the two instructions of the framebuffer (44_display.md R210 to
R215). -/

namespace Sys2Proof.Machine

/-! ### The framebuffer as its set of lit pixels -/

/-- The pixels that are on. -/
def litPixels (fb : Vector (Vector Bool 32) 64) : Set (Fin 64 × Fin 32) := {q | pixel fb q.1 q.2 = true}

theorem mem_litPixels {fb : Vector (Vector Bool 32) 64} {q : Fin 64 × Fin 32} :
    q ∈ litPixels fb ↔ pixel fb q.1 q.2 = true := Iff.rfl

/-- A framebuffer is determined by its lit pixels. -/
theorem litPixels_injective : Function.Injective litPixels := by
  intro fb fb' same
  refine Vector.ext fun px hx => Vector.ext fun py hy => ?_
  exact Bool.eq_iff_iff.mpr (Set.ext_iff.mp same (⟨px, hx⟩, ⟨py, hy⟩))

/-- Drawing from `c` to `d` flips exactly the pixels of `p`, and collides when one of them was lit (R211, R214). -/
structure Toggles (c : Canvas) (p : Set (Fin 64 × Fin 32)) (d : Canvas) : Prop where
  lit : litPixels d.fb = symmDiff (litPixels c.fb) p
  collision : d.collision = true ↔ c.collision = true ∨ (litPixels c.fb ∩ p).Nonempty

theorem Toggles.empty (c : Canvas) : Toggles c ∅ c where
  lit := (symmDiff_bot _).symm
  collision := by simp

/-- Flipping disjoint sets one after the other flips their union: no pixel is flipped back, and none that the first
flipped is met by the second. -/
theorem Toggles.union {c d e : Canvas} {p q : Set (Fin 64 × Fin 32)} (first : Toggles c p d) (second : Toggles d q e)
    (disjoint : Disjoint p q) : Toggles c (p ∪ q) e where
  lit := by
    rw [second.lit, first.lit, symmDiff_assoc, disjoint.symmDiff_eq_sup]
    rfl
  collision := by
    have kept : symmDiff (litPixels c.fb) p ∩ q = litPixels c.fb ∩ q := by
      ext z
      have : z ∈ q → z ∉ p := fun hq hp => Set.disjoint_left.mp disjoint hp hq
      simp only [Set.mem_inter_iff, Set.mem_symmDiff]
      tauto
    rw [second.collision, first.collision, first.lit, kept, Set.inter_union_distrib_left, Set.union_nonempty, or_assoc]

/-! ### Sprite pixels, rows and sprites (R211 to R214) -/

/-- Two sprite pixels within a screen's width and height of each other never fall on the same pixel. -/
theorem Lands.offsets_eq {edge : SpriteEdge} {ox oy c r c' r' : Nat} {px : Fin 64} {py : Fin 32}
    (lands : Lands edge ox oy c r px py) (lands' : Lands edge ox oy c' r' px py) (hc : c < 64) (hc' : c' < 64)
    (hr : r < 32) (hr' : r' < 32) : c = c' ∧ r = r' := by
  cases edge <;> simp only [Lands] at lands lands' <;> omega

/-- A row further down is a row of the sprite that begins one row further down. -/
theorem lands_succ_row {edge : SpriteEdge} {ox oy c r : Nat} {px : Fin 64} {py : Fin 32} :
    Lands edge ox oy c (r + 1) px py ↔ Lands edge ox (oy + 1) c r px py := by
  rw [← target_eq_some_iff, ← target_eq_some_iff, Nat.add_assoc, Nat.add_comm 1]

/-- The pixels that the 1 bits of the first `m` columns of a sprite row fall on. -/
def rowPixels (edge : SpriteEdge) (ox oy : Nat) (row : Byte) (m : Nat) : Set (Fin 64 × Fin 32) :=
  {q | ∃ k < m, Lands edge ox oy k 0 q.1 q.2 ∧ spriteBit row k = true}

/-- The pixels that the 1 bits of a sprite fall on. -/
def spritePixels (edge : SpriteEdge) (ox oy : Nat) (rows : List Byte) : Set (Fin 64 × Fin 32) :=
  {q | ∃ r c row, rows[r]? = some row ∧ c < 8 ∧ Lands edge ox oy c r q.1 q.2 ∧ spriteBit row c = true}

theorem drawPixel_toggles (edge : SpriteEdge) (ox oy c r : Nat) (bit : Bool) (canvas : Canvas) :
    Toggles canvas {q | Lands edge ox oy c r q.1 q.2 ∧ bit = true} (drawPixel edge (ox + c) (oy + r) bit canvas) where
  lit := by
    ext q
    simp only [mem_litPixels, Set.mem_symmDiff, pixel_drawPixel, ← target_eq_some_iff, Set.mem_ofPred_eq]
    by_cases h : target edge (ox + c) (oy + r) = some (q.1, q.2) <;> cases bit <;> simp [h]
  collision := by
    simp only [Set.Nonempty, Set.mem_inter_iff, mem_litPixels, Set.mem_ofPred_eq, ← target_eq_some_iff]
    unfold drawPixel
    split
    · next h => simp [h]
    · next h => simp [h]

theorem rowPixels_zero (edge : SpriteEdge) (ox oy : Nat) (row : Byte) : rowPixels edge ox oy row 0 = ∅ := by
  simp [rowPixels]

theorem rowPixels_succ (edge : SpriteEdge) (ox oy : Nat) (row : Byte) (m : Nat) :
    rowPixels edge ox oy row (m + 1) =
      rowPixels edge ox oy row m ∪ {q | Lands edge ox oy m 0 q.1 q.2 ∧ spriteBit row m = true} := by
  ext q
  simp only [rowPixels, Set.mem_union, Set.mem_ofPred_eq, Nat.lt_succ_iff_lt_or_eq, or_and_right, exists_or,
    exists_eq_left]

/-- The first `m` columns of a row, as far as they are distinct on the screen. -/
theorem drawColumns_toggles (edge : SpriteEdge) (ox oy : Nat) (row : Byte) (c : Canvas) {m : Nat} (hm : m ≤ 64) :
    Toggles c (rowPixels edge ox oy row m)
      ((List.range m).foldl (fun c k => drawPixel edge (ox + k) oy (spriteBit row k) c) c) := by
  induction m with
  | zero => rw [rowPixels_zero]; exact .empty c
  | succ m ih =>
    rw [rowPixels_succ, List.range_succ, List.foldl_append]
    refine (ih (by omega)).union (drawPixel_toggles edge ox oy m 0 _ _) (Set.disjoint_left.mpr ?_)
    rintro q ⟨k, hk, lands, -⟩ ⟨lands', -⟩
    have := (lands.offsets_eq lands' (by omega) (by omega) (by omega) (by omega)).1
    omega

theorem drawRow_toggles (edge : SpriteEdge) (ox oy : Nat) (row : Byte) (c : Canvas) :
    Toggles c (rowPixels edge ox oy row 8) (drawRow edge ox oy row c) :=
  drawColumns_toggles edge ox oy row c (by omega)

theorem spritePixels_nil (edge : SpriteEdge) (ox oy : Nat) : spritePixels edge ox oy [] = ∅ := by
  simp [spritePixels]

theorem spritePixels_cons (edge : SpriteEdge) (ox oy : Nat) (row : Byte) (rest : List Byte) :
    spritePixels edge ox oy (row :: rest) = rowPixels edge ox oy row 8 ∪ spritePixels edge ox (oy + 1) rest := by
  ext q
  constructor
  · rintro ⟨r, c, b, listed, hc, lands, bit⟩
    cases r with
    | zero => cases listed; exact .inl ⟨c, hc, lands, bit⟩
    | succ r => exact .inr ⟨r, c, b, listed, hc, lands_succ_row.mp lands, bit⟩
  · rintro (⟨c, hc, lands, bit⟩ | ⟨r, c, b, listed, hc, lands, bit⟩)
    · exact ⟨0, c, row, rfl, hc, lands, bit⟩
    · exact ⟨r + 1, c, b, listed, hc, lands_succ_row.mpr lands, bit⟩

/-- A sprite no taller than the screen flips each of its pixels once. -/
theorem drawRows_toggles (edge : SpriteEdge) (ox oy : Nat) {rows : List Byte} (c : Canvas) (height : rows.length ≤ 32) :
    Toggles c (spritePixels edge ox oy rows) (drawRows edge ox oy rows c) := by
  induction rows generalizing oy c with
  | nil => rw [spritePixels_nil]; exact .empty c
  | cons row rest ih =>
    rw [List.length_cons] at height
    rw [spritePixels_cons]
    refine (drawRow_toggles edge ox oy row c).union (ih (oy + 1) _ (by omega)) (Set.disjoint_left.mpr ?_)
    rintro q ⟨k, hk, lands, -⟩ ⟨r, k', b, listed, hk', lands', -⟩
    have below : r < rest.length := (List.getElem?_eq_some_iff.mp listed).1
    have := (lands.offsets_eq (lands_succ_row.mpr lands') (by omega) (by omega) (by omega) (by omega)).2
    omega

/-! ### The sprite of DXYN (R211) -/

/-- The pixels that the n-row sprite at I hits, drawn from `s` with its origin at (V[x], V[y]). -/
def hitPixels (s : State) (x y : RegIdx) (n : Nibble) : Set (Fin 64 × Fin 32) := {q | SpriteHits s x y n q.1 q.2}

theorem spritePixels_bytesAt (s : State) (x y : RegIdx) (n : Nibble) :
    spritePixels s.params.spriteEdge (s.reg x).toNat (s.reg y).toNat (s.bytesAt s.i.toNat n.toNat) =
      hitPixels s x y n := by
  ext q
  constructor
  · rintro ⟨r, c, row, listed, hc, lands, bit⟩
    obtain ⟨hr, rfl⟩ : r < n.toNat ∧ s.byteAt (s.i.toNat + r) = row := by
      simpa [State.bytesAt, List.getElem?_eq_some_iff] using listed
    exact ⟨r, c, hr, hc, lands, bit⟩
  · rintro ⟨r, c, hr, hc, lands, bit⟩
    exact ⟨r, c, _, by simp [State.bytesAt, hr], hc, lands, bit⟩

theorem drawSprite_toggles (s : State) (x y : RegIdx) (n : Nibble) :
    Toggles { fb := s.fb, collision := false } (hitPixels s x y n) (s.drawSprite x y n) := by
  rw [← spritePixels_bytesAt]
  refine drawRows_toggles _ _ _ _ ?_
  simp only [State.bytesAt, List.length_map, List.length_range]
  omega

/-- What a sprite hits depends on the edge policy, its origin, `I` and memory alone. -/
theorem hitPixels_congr {s t : State} {x y : RegIdx} (n : Nibble) (params : t.params = s.params)
    (hx : t.reg x = s.reg x) (hy : t.reg y = s.reg y) (i : t.i = s.i) (mem : ∀ a, t.byteAt a = s.byteAt a) :
    hitPixels t x y n = hitPixels s x y n := by
  simp only [hitPixels, SpriteHits, params, hx, hy, i, mem]

/-! ### DXYN -/

/-- The state after a DXYN that completes (R211, R215). -/
def State.drawn (s : State) (x y : RegIdx) (n : Nibble) : State :=
  { s.beginCycle.setReg vf (flagByte (s.drawSprite x y n).collision) with
    fb := (s.drawSprite x y n).fb
    frameDirty := s.frameDirty || decide (n.toNat > 0)
    drewThisCycle := true }

/-- DXYN completes when it reads no byte or only bytes that exist. -/
theorem exec_drw_of_inRange {s : State} (x y : RegIdx) {n : Nibble}
    (inRange : n.toNat = 0 ∨ s.i.toNat + n.toNat - 1 ≤ 0x0FFF) : exec (.drw x y n) s = .next (s.drawn x y n) := by
  have passes : ¬outOfRange s.i n.toNat = true := by rw [outOfRange, decide_eq_true_eq]; omega
  exact congrArg Host.Outcome.next (if_neg passes)

theorem litPixels_drawn (s : State) (x y : RegIdx) (n : Nibble) :
    litPixels (s.drawn x y n).fb = symmDiff (litPixels s.fb) (hitPixels s x y n) := (drawSprite_toggles s x y n).lit

theorem drawn_reg_other (s : State) (x y : RegIdx) (n : Nibble) {r : RegIdx} (other : r ≠ vf) :
    (s.drawn x y n).reg r = s.reg r := reg_setReg_other s.beginCycle _ other

theorem flagByte_eq_one_iff {c : Bool} : flagByte c = 1 ↔ c = true := by cases c <;> decide

theorem flagByte_eq_zero_iff {c : Bool} : flagByte c = 0 ↔ ¬c = true := by cases c <;> decide

theorem drawSprite_collides_iff (s : State) (x y : RegIdx) (n : Nibble) :
    (s.drawSprite x y n).collision = true ↔ (litPixels s.fb ∩ hitPixels s x y n).Nonempty :=
  (drawSprite_toggles s x y n).collision.trans (or_iff_right Bool.false_ne_true)

theorem drawn_vf (s : State) (x y : RegIdx) (n : Nibble) :
    (s.drawn x y n).reg vf = flagByte (s.drawSprite x y n).collision := reg_setReg_same s.beginCycle vf _

/-- VF is 1 when a pixel that the sprite hits was lit (R214). -/
theorem drawn_vf_eq_one_iff (s : State) (x y : RegIdx) (n : Nibble) :
    (s.drawn x y n).reg vf = 1 ↔ (litPixels s.fb ∩ hitPixels s x y n).Nonempty := by
  rw [drawn_vf, flagByte_eq_one_iff, drawSprite_collides_iff]

/-- Otherwise VF is 0 (R214). -/
theorem drawn_vf_eq_zero_iff (s : State) (x y : RegIdx) (n : Nibble) :
    (s.drawn x y n).reg vf = 0 ↔ ¬(litPixels s.fb ∩ hitPixels s x y n).Nonempty := by
  rw [drawn_vf, flagByte_eq_zero_iff, drawSprite_collides_iff]

/-- The hit lit pixels, with the two coordinates apart. -/
theorem litPixels_inter_hitPixels_nonempty_iff (s : State) (x y : RegIdx) (n : Nibble) :
    (litPixels s.fb ∩ hitPixels s x y n).Nonempty ↔
      ∃ px py, pixel s.fb px py = true ∧ SpriteHits s x y n px py := Prod.exists

/-- Settles O36: the sprite flips each pixel it hits once, so a completed DXYN leaves the symmetric difference of the lit
and the hit pixels. -/
theorem drawXorsTheSprite : Obligations.DrawXorsTheSprite := by
  refine fun s x y n => ⟨encode_matches_row (.drw x y n), fun inRange => ?_, fun ⟨reads, beyond⟩ => ?_⟩
  · refine ⟨_, exec_drw_of_inRange x y inRange, fun px py => ?xor, fun hit => ?collides, fun miss => ?clears,
      fun r other => drawn_reg_other s x y n other, rfl, rfl, rfl,
      unchangedExcept_of_writes (i := .drw x y n) rfl (by simp [writtenParts]) (.inl (by simp))⟩
    case xor =>
      have flipped := Set.ext_iff.mp (litPixels_drawn s x y n) (px, py)
      rw [Set.mem_symmDiff, ← xor_def, xor_iff_not_iff] at flipped
      exact flipped
    case collides => exact (drawn_vf_eq_one_iff s x y n).mpr ((litPixels_inter_hitPixels_nonempty_iff s x y n).mpr hit)
    case clears =>
      exact (drawn_vf_eq_zero_iff s x y n).mpr (mt (litPixels_inter_hitPixels_nonempty_iff s x y n).mp miss)
  · obtain ⟨k, rows⟩ := Nat.exists_eq_add_one_of_ne_zero (Nat.ne_of_gt reads)
    exact exec_haltsWith_of_outOfRange (n := k) (by rw [← rows]; rfl) (by omega)

/-- The first draw changes nothing that a second one reads but the framebuffer. -/
theorem hitPixels_drawn (s : State) {x y : RegIdx} (n : Nibble) (hx : x ≠ vf) (hy : y ≠ vf) :
    hitPixels (s.drawn x y n) x y n = hitPixels s x y n :=
  hitPixels_congr n rfl (drawn_reg_other s x y n hx) (drawn_reg_other s x y n hy) rfl fun _ => rfl

/-- Settles O37: the symmetric difference with the same set taken twice is the first set again; on a clear screen the
first draw lights exactly the set, which the second meets. -/
theorem drawingTwiceRestoresTheScreen : Obligations.DrawingTwiceRestoresTheScreen := by
  intro s x y n hx hy inRange
  have again := hitPixels_drawn s n hx hy
  refine ⟨_, _, exec_drw_of_inRange x y inRange, exec_drw_of_inRange x y inRange, ?restored, fun clear => ?flags⟩
  case restored =>
    apply litPixels_injective
    rw [litPixels_drawn, litPixels_drawn, again, symmDiff_symmDiff_cancel_right]
  case flags =>
    have dark : litPixels s.fb = ∅ := Set.eq_empty_of_forall_notMem fun q => by simp [mem_litPixels, clear]
    have lit : litPixels (s.drawn x y n).fb = hitPixels s x y n := by
      rw [litPixels_drawn, dark]; exact bot_symmDiff _
    constructor
    · rw [show (0xF : RegIdx) = vf from rfl, drawn_vf_eq_zero_iff, dark]
      simp
    · rw [show (0xF : RegIdx) = vf from rfl, drawn_vf_eq_one_iff, again, ← lit, Set.inter_self]
      exact Prod.exists

/-! ### 00E0 -/

/-- Settles O35: the blank screen is the framebuffer of reset. -/
theorem clearScreenClearsEveryPixel : Obligations.ClearScreenClearsEveryPixel :=
  ⟨rfl, fun s => ⟨_, rfl, reset_pixel, rfl, rfl, rfl,
    unchangedExcept_of_writes (i := .cls) rfl (by simp [writtenParts]) (.inr rfl)⟩⟩

end Sys2Proof.Machine

/-! The timers and keys: FX07, FX15, FX18, EX9E, EXA1 and FX0A (45_timers_keys.md R240 to R245). -/

namespace Sys2Proof.Machine

/-! ### Frames -/

/-- A part that was listed as written but kept its value need not be listed. -/
theorem UnchangedExcept.of_cons {p : Part} {ps : List Part} {s t : State} (h : UnchangedExcept (p :: ps) s t)
    (kept : Unchanged s t p) : UnchangedExcept ps s t := by
  intro q unlisted
  by_cases e : q = p
  · exact e ▸ kept
  · exact h q (List.not_mem_cons_of_ne_of_not_mem e unlisted)

/-! ### The timers (R240 to R242) -/

/-- Settles O39: FX07 is one register write and FX15 one write of DT. -/
theorem delayTimerIsReadAndWritten : Obligations.DelayTimerIsReadAndWritten := fun _ x =>
  ⟨⟨encode_matches_row (.ldVxDT x), exec_of_setReg rfl⟩,
    ⟨encode_matches_row (.ldDT x), _, rfl, rfl, rfl, rfl,
      unchangedExcept_of_writes (i := .ldDT x) rfl (by simp [writtenParts]) (.inr rfl)⟩⟩

/-- FX18 as one record update, with the Beep of 60_exceptions.md R277 on the values of ST as numbers. -/
theorem exec_ldST (x : RegIdx) (s : State) :
    exec (.ldST x) s = .next { s.beginCycle with
      st := s.reg x
      outputs := if (s.reg x).toNat = 1 ∧ s.st.toNat ≠ 1 then .beep :: s.outputs else s.outputs } := by
  have one (b : Byte) : b = 1 ↔ b.toNat = 1 := BitVec.toNat_inj.symm
  simp only [exec, execLdST, beepOn_eq, beginCycle_outputs, ne_eq, one]

/-- Settles O40: FX18 writes ST and the outputs. -/
theorem soundTimerIsWrittenAndMayBeep : Obligations.SoundTimerIsWrittenAndMayBeep := fun s x =>
  ⟨encode_matches_row (.ldST x), _, exec_ldST x s, rfl, rfl, rfl, rfl,
    unchangedExcept_of_writes (i := .ldST x) rfl (by simp [writtenParts]) (.inr rfl)⟩

/-! ### The skips on keys (R243, R244) -/

/-- Settles O18: both skip on `keyIsDown`, which the table of R148 writes as a lookup in the latch. -/
theorem skipsOnKeys : Obligations.SkipsOnKeys := by
  intro s x
  have skp : pcAfter s (.skp x) = if s.keyIsDown (s.reg x) then s.pc + 4 else s.pc + 2 := by
    simp only [pcAfter, keyIsDown_iff]
  have sknp : pcAfter s (.sknp x) = if !s.keyIsDown (s.reg x) then s.pc + 4 else s.pc + 2 := by
    simp only [pcAfter, ← keyIsDown_iff, Bool.not_eq_true', ← Bool.not_eq_true, ite_not]
  exact ⟨⟨encode_matches_row (.skp x), exec_of_skipIf rfl skp⟩,
    ⟨encode_matches_row (.sknp x), exec_of_skipIf rfl sknp⟩⟩

/-! ### The wait for a key (R245) -/

/-- FX0A with no key down goes back to its own address. -/
theorem exec_ldVxK_of_noKey {s : State} (x : RegIdx) (up : ∀ k : Fin 16, s.keys[k] = false) :
    exec (.ldVxK x) s = .next { s.beginCycle with pc := s.pc, waitKey := true } := by
  obtain ⟨noneDown, -⟩ | ⟨k, -, down, -⟩ := lowestDown_cases s
  · simp [exec, execLdVxK, noneDown]
  · simp [up k] at down

/-- The least key that is down is the one `lowestDown` finds. -/
theorem lowestDown_of_least {s : State} {k : Fin 16} (down : s.keys[k] = true)
    (least : ∀ j : Fin 16, j < k → s.keys[j] = false) : s.lowestDown = some k := by
  obtain ⟨-, up⟩ | ⟨j, found, jDown, jLeast⟩ := lowestDown_cases s
  · simp [up k] at down
  · obtain below | rfl | above := lt_trichotomy j k
    · simp [least j below] at jDown
    · exact found
    · simp [jLeast k above] at down

/-- FX0A with a key down takes the least one, which stays in the latch. -/
theorem exec_ldVxK_of_least {s : State} (x : RegIdx) {k : Fin 16} (down : s.keys[k] = true)
    (least : ∀ j : Fin 16, j < k → s.keys[j] = false) :
    exec (.ldVxK x) s = .next { s.beginCycle.setReg x (BitVec.ofNat 8 k.val) with waitKey := false } := by
  simp only [exec, execLdVxK, lowestDown_of_least down least]

/-- Settles O41: FX0A waits or takes a key by whether the latch has one down; where it waits, PC is as it was, so the
frame of its row loses PC. -/
theorem waitForKeyTakesTheLeastKey : Obligations.WaitForKeyTakesTheLeastKey := by
  refine fun s x => ⟨encode_matches_row (.ldVxK x), fun up => ?_, fun k down least => ?_⟩
  · have frame : UnchangedExcept [.pc, .waitKey, .drewThisCycle] s { s.beginCycle with pc := s.pc, waitKey := true } :=
      unchangedExcept_of_writes (i := .ldVxK x) rfl (by simp [writtenParts]) (.inr rfl)
    exact ⟨_, exec_ldVxK_of_noKey x up, rfl, rfl, rfl, frame.of_cons rfl⟩
  · have key : (BitVec.ofNat 8 k.val).toNat = k.val := by rw [BitVec.toNat_ofNat]; omega
    exact ⟨_, exec_ldVxK_of_least x down least, (congrArg BitVec.toNat (reg_setReg_same s.beginCycle x _)).trans key,
      fun r other => reg_setReg_other s.beginCycle _ other, rfl, rfl, rfl,
      unchangedExcept_of_writes (i := .ldVxK x) rfl (by simp [writtenParts]) (.inl (by simp))⟩

end Sys2Proof.Machine

/-! What each event of the host and the timer can do (20_memory.md R70, 60_exceptions.md R270, R285). -/

namespace Sys2Proof.Machine

/-! ### Frames of the host's and the timer's events -/

/-- The parts that the timer's and the host's events can write, resets and loads aside. -/
def hostParts : List Part := [.dt, .st, .frameDirty, .alive, .paused, .keys, .events, .outputs]

/-- `s` with those parts taken from `t`. -/
def State.withHostParts (s t : State) : State :=
  { s with
    dt := t.dt
    st := t.st
    frameDirty := t.frameDirty
    alive := t.alive
    paused := t.paused
    keys := t.keys
    events := t.events
    outputs := t.outputs }

/-- The parts that a host's command or query writes; a load or reload writes the outputs when it fails. -/
def commandParts : Event → List Part
  | .start => [.alive, .paused]
  | .stop => [.alive]
  | .pause | .resume => [.paused]
  | .keyDown _ | .keyUp _ => [.keys]
  | .frameAck => [.frameDirty]
  | .cycle | .step | .tick | .reset => []
  | _ => [.outputs]

/-- A frame of such an event, once each of those parts is listed or kept. The default argument evaluates the commands
that are one record update. -/
theorem unchangedExcept_of_hostParts {s t : State} {ps : List Part} (writes : t = s.withHostParts t)
    (kept : ∀ p ∈ hostParts, p ∉ ps → Unchanged s t p := by
      simp [hostParts, commandParts, Unchanged, State.stop, State.resume, State.setKey, State.frameAck]) :
    UnchangedExcept ps s t := by
  intro p unlisted
  by_cases host : p ∈ hostParts
  · exact kept p host unlisted
  · rw [writes]
    cases p with
    | v => exact fun _ => rfl
    | mem => exact fun _ => rfl
    | fb => exact fun _ _ => rfl
    | haltRecord => exact ⟨rfl, rfl, rfl, rfl⟩
    | dt | st | frameDirty | alive | paused | keys | events | outputs => simp [hostParts] at host
    | _ => rfl

/-- A command or query that took `s` to `t` wrote its own parts and put out no Beep. -/
structure CommandEffect (e : Event) (s t : State) : Prop where
  frame : UnchangedExcept (commandParts e) s t
  beeps : t.outputs.count .beep = s.outputs.count .beep

theorem CommandEffect.refl (e : Event) (s : State) : CommandEffect e s s :=
  ⟨unchangedExcept_of_hostParts rfl, rfl⟩

/-- What a reset, by `reset()` or by a load, leaves of the latch, the screen flag, ST and the Beeps
(70_reset_and_hazards.md R321). -/
structure Resets (s t : State) : Prop where
  keys : t.keys = s.keys
  frameDirty : t.frameDirty = true
  st : t.st = 0
  beeps : t.outputs.count .beep = s.outputs.count .beep

/-- The events that reset the core (60_exceptions.md R264). -/
def IsReset (e : Event) : Prop := e = .reset ∨ (∃ rom, e = .load rom) ∨ e = .reload

/-! ### What one event can do -/

theorem emit_commandEffect {e : Event} (s : State) {o : Output} (reply : o ≠ .beep) (answers : .outputs ∈ commandParts e) :
    CommandEffect e s (s.emit o) where
  frame := unchangedExcept_of_hostParts rfl (by simp [hostParts, Unchanged, answers])
  beeps := by simp [reply]

theorem load_cases (s : State) (rom : List Byte) :
    Resets s (s.load rom) ∨ s.load rom = s.emit (.loadFailed .bufferTooLarge) := by
  unfold State.load
  split
  · exact .inl ⟨rfl, rfl, rfl, by simp [State.hostReset]⟩
  · exact .inr rfl

theorem reload_cases (s : State) : Resets s s.reload ∨ ∃ why, s.reload = s.emit (.loadFailed why) := by
  unfold State.reload
  split
  · exact (load_cases s _).imp_right fun failed => ⟨_, failed⟩
  · exact .inr ⟨_, rfl⟩

theorem start_commandEffect (s : State) : CommandEffect .start s s.start := by
  unfold State.start
  split
  · exact ⟨unchangedExcept_of_hostParts rfl, rfl⟩
  · exact .refl _ s

theorem pause_commandEffect (s : State) : CommandEffect .pause s s.pause := by
  unfold State.pause
  split
  · exact ⟨unchangedExcept_of_hostParts rfl, rfl⟩
  · exact .refl _ s

/-- A Cycle happens when it is enabled, which no Cycle of a halted core is (40_cycle.md R126, 60_exceptions.md R292). -/
theorem cycle_if_cases {enabled : Bool} {s t : State} (running : enabled = true → s.halted = false)
    (h : (if enabled then cycle s else .next s) = .next t) : s.halted = false ∧ cycle s = .next t ∨ t = s := by
  split at h
  · next on => exact .inl ⟨running on, h⟩
  · cases h; exact .inr rfl

/-- What an event that took `s` to `t` was: a Cycle, a Tick, a reset, or a command or query, those that were not enabled
among them (20_memory.md R70). -/
inductive EventEffect (e : Event) (s t : State) : Prop
  | cycles (event : e = .cycle ∨ e = .step) (running : s.halted = false) (next : cycle s = .next t)
  | ticks (event : e = .tick) (enabled : s.tickEnabled = true) (next : t = s.tick)
  | resets (event : IsReset e) (next : Resets s t)
  | commands (next : CommandEffect e s t)

/-- Every event that answers a next state has one of these effects. -/
theorem perform_effect {e : Event} {s t : State} (h : perform e s = .next t) : EventEffect e s t := by
  cases e with
  | cycle | step =>
    obtain ⟨running, next⟩ | rfl :=
      cycle_if_cases (by simp +contextual [State.cycleEnabled, State.stepEnabled]) h
    · exact .cycles (by simp) running next
    · exact .commands (.refl _ _)
  | tick =>
    cases h
    split
    · next enabled => exact .ticks rfl enabled rfl
    · exact .commands (.refl _ s)
  | reset => cases h; exact .resets (.inl rfl) ⟨rfl, rfl, rfl, rfl⟩
  | load rom =>
    cases h
    obtain resets | failed := load_cases s rom
    · exact .resets (.inr (.inl ⟨rom, rfl⟩)) resets
    · rw [failed]; exact .commands (emit_commandEffect s nofun (by simp [commandParts]))
  | reload =>
    cases h
    obtain resets | ⟨why, failed⟩ := reload_cases s
    · exact .resets (.inr (.inr rfl)) resets
    · rw [failed]; exact .commands (emit_commandEffect s nofun (by simp [commandParts]))
  | start => cases h; exact .commands (start_commandEffect s)
  | pause => cases h; exact .commands (pause_commandEffect s)
  | stop | resume | keyDown | keyUp | frameAck =>
    cases h; exact .commands ⟨unchangedExcept_of_hostParts rfl, rfl⟩
  | _ => cases h; exact .commands (emit_commandEffect s nofun (by simp [commandParts]))

end Sys2Proof.Machine

/-! What a step performs, and the statements about the host's and the timer's events: the `step()` port, `FrameDirty`, the
Tick, the Beep, the latch, a halted core and the queries (60_exceptions.md R264 to R292). -/

namespace Sys2Proof.Machine

/-! ### What a step performs -/

/-- `s` without its oldest listed event, if any. -/
def State.takeEvent (s : State) : State := { s with events := s.events.tail }

theorem takeEvent_of_no_event {s : State} (h : s.events = []) : s.takeEvent = s := by
  rw [State.takeEvent, h, List.tail_nil, ← h]

/-- A step performs the oldest listed event, or a free-running Cycle, at the state without it (20_memory.md R71). -/
theorem perform_of_step {s t : State} (h : step s = .next t) :
    perform (s.events.headD .cycle) s.takeEvent = .next t := by
  obtain ⟨none, e⟩ | ⟨event, es, listed, e⟩ := step_performs s
  · rw [takeEvent_of_no_event none, none, ← h, e]
    rfl
  · rw [State.takeEvent, listed, ← h, e]
    rfl

/-- What a step performs other than a free-running Cycle is listed. -/
theorem events_eq_of_headD {s : State} {e : Event} (next : s.events.headD .cycle = e) (listed : e ≠ .cycle) :
    s.events = e :: s.events.tail := by
  cases h : s.events with
  | nil => rw [h] at next; exact absurd next.symm listed
  | cons => rw [h] at next; rw [← next]; rfl

/-- A frame of an event is a frame of the step that takes it off the list. -/
theorem UnchangedExcept.of_event_taken {s t : State} {ps qs : List Part}
    (h : UnchangedExcept ps s.takeEvent t) (listed : .events :: ps ⊆ qs) : UnchangedExcept qs s t := by
  intro p unlisted
  have kept := h p fun mem => unlisted (listed (.tail _ mem))
  cases p with
  | events => exact absurd (listed (.head _)) unlisted
  | _ => exact kept

/-- A Cycle raises a fault or runs an instruction, so what both leave it leaves. -/
theorem cycle_induction {P : State → Prop} {s t : State} (h : cycle s = .next t)
    (fault : ∀ cause op addr, P (s.raise cause op addr)) (instr : ∀ i, exec i s = .next t → P t) : P t := by
  obtain ⟨-, e⟩ | ⟨_, _, -, -, e⟩ | ⟨_, i, -, -, e⟩ := cycle_cases s
  · cases e.symm.trans h; exact fault _ _ _
  · cases e.symm.trans h; exact fault _ _ _
  · exact instr i (e.symm.trans h)

/-! ### The `step()` port (R292) -/

/-- Settles O8: either event runs the Cycle when it is enabled and is only taken off the list when it is not. -/
theorem stepPortRunsACycleEvenWhenPaused : Obligations.StepPortRunsACycleEvenWhenPaused := by
  intro s es e enabled listed kind
  have performs : step s = if enabled then cycle { s with events := es } else .next { s with events := es } := by
    obtain ⟨rfl, rfl⟩ | ⟨rfl, rfl⟩ := kind <;> exact step_of_event listed
  refine ⟨fun i on pc decoded => ?_, fun off => ?_⟩
  · rw [performs, if_pos on]
    exact cycle_of_instr (fetch_eq_some (s := { s with events := es }) pc) decoded
  · rw [performs, off, if_neg Bool.false_ne_true]

/-! ### `FrameDirty` (R287, 44_display.md R215) -/

/-- No instruction clears `FrameDirty`: 00E0 sets it, DXYN sets it or leaves it, and no other one writes it. -/
theorem exec_frameDirty {i : Instr} {s t : State} (h : exec i s = .next t) (dirty : s.frameDirty = true) :
    t.frameDirty = true := by
  obtain ⟨-, -, screen, -⟩ := onlyNamedInstructionsWriteEachPart i s t h
  cases i with
  | cls => cases h; rfl
  | drw =>
    cases h
    exact checkRange_induction (P := fun t => t.frameDirty = true) _ _ dirty (by simp [dirty])
  | _ =>
    obtain ⟨-, kept⟩ := screen nofun nofun
    rw [kept, dirty]

/-- No event but `frameAck()` clears it. -/
theorem perform_frameDirty {e : Event} {s t : State} (h : perform e s = .next t) (dirty : s.frameDirty = true)
    (other : e ≠ .frameAck) : t.frameDirty = true := by
  cases perform_effect h with
  | cycles _ _ next =>
    exact cycle_induction (P := fun t => t.frameDirty = true) next (fun _ _ _ => dirty)
      fun _ executes => exec_frameDirty executes dirty
  | ticks _ _ next =>
    rw [next, State.tick, beepOn_eq]
    exact dirty
  | resets _ next => exact next.frameDirty
  | commands next =>
    have unwritten : .frameDirty ∉ commandParts e := by cases e <;> simp_all [commandParts]
    exact (next.frame _ unwritten).trans dirty

/-- Settles O38: a step that performs another event than `frameAck()` leaves a set `FrameDirty` set. -/
theorem onlyTheHostClearsFrameDirty : Obligations.OnlyTheHostClearsFrameDirty := by
  refine ⟨fun s es listed => ?_, fun s t h dirty clean => ?_⟩
  · exact ⟨_, step_of_event listed, rfl, rfl, unchangedExcept_of_hostParts rfl⟩
  · by_contra notListed
    have other : s.events.headD .cycle ≠ .frameAck := fun e => notListed ⟨_, events_eq_of_headD e nofun⟩
    have stillDirty : t.frameDirty = true := perform_frameDirty (s := s.takeEvent) (perform_of_step h) dirty other
    simp [stillDirty] at clean

/-! ### The Tick (R275, R276) -/

theorem byte_eq_one_iff (b : Byte) : b = 1 ↔ b.toNat = 1 := BitVec.toNat_inj.symm

theorem toNat_countDown (t : Byte) : (countDown t).toNat = t.toNat - 1 := by
  unfold countDown
  split
  · bv_omega
  · omega

theorem tickEnabled_iff (s : State) :
    s.tickEnabled = true ↔ s.alive = true ∧ s.halted = false ∧ (s.paused = false ∨ s.params.tickWhenPaused = true) := by
  simp [State.tickEnabled, and_assoc]

/-- The Tick as one record update: ST counts down to 1 from 2 alone. -/
theorem tick_eq (s : State) :
    s.tick = { s with
      dt := countDown s.dt
      st := countDown s.st
      outputs := if s.st.toNat = 2 then .beep :: s.outputs else s.outputs } := by
  have reachesOne : countDown s.st = 1 ∧ s.st ≠ 1 ↔ s.st.toNat = 2 := by
    rw [ne_eq, byte_eq_one_iff, byte_eq_one_iff, toNat_countDown]
    omega
  simp only [State.tick, beepOn_eq, reachesOne]

/-- Settles O42: a listed Tick is `State.tick` when it is enabled, and only leaves the list when it is not. -/
theorem tickCountsBothTimersDown : Obligations.TickCountsBothTimersDown := by
  intro s es listed
  have ticks : step s = .next (if s.tickEnabled then { s with events := es }.tick else { s with events := es }) :=
    step_of_event listed
  rw [ticks, ← tickEnabled_iff]
  refine ⟨fun on => ?_, fun off => ?_⟩
  · rw [if_pos on, tick_eq]
    exact ⟨_, rfl, toNat_countDown _, toNat_countDown _, rfl, rfl, unchangedExcept_of_hostParts rfl⟩
  · rw [if_neg off]

/-! ### The Beep (R277) -/

/-- From `s` to `t` one Beep is put out if ST moves to 1 from another value, and none otherwise. -/
def BeepsAsStMoves (s t : State) : Prop :=
  t.outputs.count .beep = s.outputs.count .beep + (if s.st.toNat ≠ 1 ∧ t.st.toNat = 1 then 1 else 0)

/-- Without a Beep ST must not move to 1: it stays, or becomes 0. -/
theorem beepsAsStMoves_of_silent {s t : State} (beeps : t.outputs.count .beep = s.outputs.count .beep)
    (st : t.st = s.st ∨ t.st = 0) : BeepsAsStMoves s t := by
  have unreached : ¬(s.st.toNat ≠ 1 ∧ t.st.toNat = 1) := by
    obtain st | st := st <;> simp [st]
  rw [BeepsAsStMoves, if_neg unreached, beeps, Nat.add_zero]

/-- Moving ST through `beepOn` puts out the Beep of the move. -/
theorem beepOn_beepsAsStMoves {s t : State} {new : Byte} (st : t.st = new) (outputs : t.outputs = s.outputs) :
    BeepsAsStMoves s (State.beepOn s.st new t) := by
  simp only [BeepsAsStMoves, beepOn_eq, outputs, st, ne_eq, byte_eq_one_iff, and_comm (a := new.toNat = 1)]
  split
  · exact List.count_cons_self
  · rfl

/-- FX18 moves ST through `beepOn`; no other instruction writes ST or the outputs. -/
theorem exec_beepsAsStMoves {i : Instr} {s t : State} (h : exec i s = .next t) : BeepsAsStMoves s t := by
  obtain ⟨-, -, -, -, -, -, -, sound, -⟩ := onlyNamedInstructionsWriteEachPart i s t h
  cases i with
  | ldST => cases h; exact beepOn_beepsAsStMoves rfl rfl
  | _ =>
    obtain ⟨st, outputs⟩ := sound nofun
    exact beepsAsStMoves_of_silent (by rw [outputs]) (.inl st)

theorem perform_beepsAsStMoves {e : Event} {s t : State} (h : perform e s = .next t) : BeepsAsStMoves s t := by
  cases perform_effect h with
  | cycles _ _ next =>
    exact cycle_induction next (fun _ _ _ => beepsAsStMoves_of_silent rfl (.inl rfl)) fun _ => exec_beepsAsStMoves
  | ticks _ _ next =>
    rw [next]
    exact beepOn_beepsAsStMoves rfl rfl
  | resets _ next => exact beepsAsStMoves_of_silent next.beeps (.inr next.st)
  | commands next =>
    have unwritten : .st ∉ commandParts e := by cases e <;> simp [commandParts]
    exact beepsAsStMoves_of_silent next.beeps (.inl (next.frame _ unwritten))

/-- Settles O43: a step performs one event, and taking that event off the list touches neither ST nor the outputs. -/
theorem beepExactlyWhenStReachesOne : Obligations.BeepExactlyWhenStReachesOne := fun s _ h =>
  perform_beepsAsStMoves (s := s.takeEvent) (perform_of_step h)

/-! ### The latch (R280, 10_state.md R37) -/

/-- No event but `keyDown` and `keyUp` moves the latch. -/
theorem perform_keys {e : Event} {s t : State} (h : perform e s = .next t) (notDown : ∀ k, e ≠ .keyDown k)
    (notUp : ∀ k, e ≠ .keyUp k) : t.keys = s.keys := by
  cases perform_effect h with
  | cycles _ _ next =>
    refine cycle_induction (P := fun t => t.keys = s.keys) next (fun _ _ _ => rfl) fun i executes => ?_
    obtain ⟨-, -, -, -, -, -, -, -, -, -, keys, -⟩ := onlyNamedInstructionsWriteEachPart i s t executes
    exact keys
  | ticks _ _ next => rw [next, State.tick, beepOn_eq]
  | resets _ next => exact next.keys
  | commands next =>
    have unwritten : .keys ∉ commandParts e := by cases e <;> simp_all [commandParts]
    exact next.frame _ unwritten

/-- Settles O44: each of the two ports writes one entry of the latch, and a step that performs another event none. -/
theorem onlyTheHostMovesKeys : Obligations.OnlyTheHostMovesKeys := by
  refine ⟨fun s es k down listed => ?_, fun s t h notDown notUp => ?_⟩
  · have performs : step s = .next (State.setKey { s with events := es } k down) := by
      rw [step_of_event listed]
      cases down <;> rfl
    exact ⟨_, performs, Vector.getElem?_set_self k.isLt, fun j other => Vector.getElem_set_ne k.isLt j.isLt other.symm,
      rfl, unchangedExcept_of_hostParts rfl⟩
  · exact perform_keys (s := s.takeEvent) (perform_of_step h) (fun k e => notDown k _ (events_eq_of_headD e nofun))
      fun k e => notUp k _ (events_eq_of_headD e nofun)

/-! ### A halted core (R264) -/

/-- A halted core runs no Cycle and takes no Tick, so every event that does not reset it is a command or query. -/
theorem perform_of_halted {e : Event} {s t : State} (halted : s.halted = true) (h : perform e s = .next t)
    (noReset : ¬IsReset e) : CommandEffect e s t := by
  cases perform_effect h with
  | cycles _ running _ => simp [halted] at running
  | ticks _ enabled _ => simp [State.tickEnabled, halted] at enabled
  | resets event _ => exact absurd event noReset
  | commands next => exact next

theorem commandParts_subset (e : Event) :
    .events :: commandParts e ⊆ [.alive, .paused, .keys, .frameDirty, .events, .outputs] := by
  cases e <;> simp [commandParts]

/-- Settles O47: the step performs a command or query, which writes none of the other parts. -/
theorem haltedUntilResetOrLoad : Obligations.HaltedUntilResetOrLoad := by
  intro s t halted h notReset notLoad notReload
  have noReset : ¬IsReset (s.events.headD .cycle) := by
    rintro (e | ⟨rom, e⟩ | e)
    · exact notReset _ (events_eq_of_headD e nofun)
    · exact notLoad rom _ (events_eq_of_headD e nofun)
    · exact notReload _ (events_eq_of_headD e nofun)
  have command := perform_of_halted (s := s.takeEvent) halted (perform_of_step h) noReset
  exact command.frame.of_event_taken (commandParts_subset _)

/-! ### The queries (R285, 44_display.md R216) -/

/-- A listed event that only puts out a result. -/
theorem step_of_query {s : State} {es : List Event} {q : Event} {o : Output} (listed : s.events = q :: es)
    (answers : perform q { s with events := es } = .next (State.emit o { s with events := es })) :
    ∃ t, step s = .next t ∧ t.outputs = o :: s.outputs ∧ t.events = es ∧ UnchangedExcept [.outputs, .events] s t :=
  ⟨_, (step_of_event listed).trans answers, rfl, rfl, unchangedExcept_of_hostParts rfl⟩

/-- `getPixel` answers the pixel its coordinates name: inside the grid their own, outside it under `WRAP` the one modulo
the screen size. -/
theorem getPixel_of_named {s : State} {x y : Nat} {px : Fin 64} {py : Fin 32}
    (named : x = px.val ∧ y = py.val ∨ s.params.spriteEdge = .wrap ∧ px.val = x % 64 ∧ py.val = y % 32) :
    s.getPixel x y = pixel s.fb px py := by
  have lands : Lands s.params.spriteEdge 0 0 x y px py := by
    obtain ⟨rfl, rfl⟩ | ⟨wrap, column, row⟩ := named
    · cases s.params.spriteEdge <;> simp [Lands, Nat.mod_eq_of_lt]
    · simp [Lands, wrap, column, row]
  have names := (target_eq_some_iff _ 0 0 x y px py).mpr lands
  rw [Nat.zero_add, Nat.zero_add] at names
  rw [State.getPixel, names]

/-- `getPixel` outside the grid answers false under `CLIP`. -/
theorem getPixel_of_clipped {s : State} {x y : Nat} (clip : s.params.spriteEdge = .clip) (outside : x > 63 ∨ y > 31) :
    s.getPixel x y = false := by
  have skipped : target .clip x y = none := dif_neg (by omega)
  rw [State.getPixel, clip, skipped]

/-- Settles O54: each query is one `emit` of its result. -/
theorem queriesOnlyAnswer : Obligations.QueriesOnlyAnswer := by
  intro s es q o listed answer
  refine step_of_query listed ?_
  obtain ⟨rfl, rfl⟩ | ⟨rfl, rfl⟩ | ⟨rfl, rfl⟩ | ⟨rfl, rfl⟩ | ⟨rfl, rfl⟩ | ⟨rfl, rfl⟩ | ⟨rfl, rfl⟩ |
    ⟨px, py, x, y, rfl, rfl, named⟩ | ⟨x, y, rfl, rfl, clip, outside⟩ := answer
  iterate 7 · rfl
  · rw [perform, getPixel_of_named (s := { s with events := es }) named]
  · rw [perform, getPixel_of_clipped (s := { s with events := es }) clip outside]

end Sys2Proof.Machine

/-! The faults of the instructions: when each raises, with what record, and what it leaves (60_exceptions.md R261 to
R265). -/

namespace Sys2Proof.Machine

/-- The address a fault of a decoded instruction records: the lowest one out of range of a data access, else 0 (R261). -/
def faultAddr (s : State) (cause : HaltCause) : Word :=
  if cause = .memOutOfRange then BitVec.ofNat 16 (max s.i.toNat 0x1000) else 0

/-- The cycle of `i` from `s` to `t` did what the table of R261 says: raised its cause, or completed with the writes of
`i` where the table has none. -/
def FollowsFaultTable (i : Instr) (s t : State) : Prop :=
  (∃ cause, FaultsOn s i = some cause ∧ t = s.raise cause (encode i) (faultAddr s cause)) ∨
  (FaultsOn s i = none ∧ t = s.withWrites i t)

/-- An instruction with a single range check, whose row of the table is that check (R265). -/
theorem checkRange_followsFaultTable {i : Instr} {n : Nat} {s t : State} (writes : t = s.withWrites i t)
    (row : FaultsOn s i = if outOfRange s.i n then some .memOutOfRange else none) :
    FollowsFaultTable i s (checkRange i n s t) := by
  obtain ⟨out, e⟩ | ⟨inRange, e⟩ := checkRange_cases i n s t
  · exact .inl ⟨.memOutOfRange, by rw [row, if_pos out], by rw [e, lowestOutOfRange_eq]; rfl⟩
  · exact .inr ⟨by rw [row, inRange, if_neg Bool.false_ne_true], by rw [e]; exact writes⟩

theorem execCall_followsFaultTable {nnn : Addr12} {s t : State} (h : exec (.call nnn) s = .next t) :
    FollowsFaultTable (.call nnn) s t := by
  obtain room | full := Nat.lt_or_ge s.sp.toNat 16
  · cases (exec_call_of_room nnn room).symm.trans h
    exact .inr ⟨if_neg (Nat.not_le.mpr room), rfl⟩
  · cases (exec_call_of_full nnn full).symm.trans h
    exact .inl ⟨_, if_pos full, rfl⟩

theorem execRet_followsFaultTable {s t : State} (h : exec .ret s = .next t) : FollowsFaultTable .ret s t := by
  obtain empty | used := Nat.eq_zero_or_pos s.sp.toNat
  · cases (exec_ret_of_empty empty).symm.trans h
    exact .inl ⟨_, if_pos empty, rfl⟩
  · have noFault : FaultsOn s .ret = none := if_neg used.ne'
    obtain illegal | legal := Nat.lt_or_ge 16 s.sp.toNat
    · cases (execRet_eq_fault illegal).symm.trans h
    · cases (exec_ret_of_used used (by omega)).symm.trans h
      exact .inr ⟨noFault, rfl⟩

/-- Every instruction that answers a next state follows the table. -/
theorem exec_followsFaultTable {i : Instr} {s t : State} (h : exec i s = .next t) : FollowsFaultTable i s t := by
  cases i with
  | call => exact execCall_followsFaultTable h
  | ret => exact execRet_followsFaultTable h
  | drw | ldB | storeRegs | loadRegs =>
    cases h
    exact checkRange_followsFaultTable rfl (by simp [FaultsOn, outOfRange])
  | seImm | sneImm | seReg | sneReg | skp | sknp => cases h; rw [skipIf_eq]; exact .inr ⟨rfl, rfl⟩
  | ldST => cases h; rw [beepOn_eq]; exact .inr ⟨rfl, rfl⟩
  | ldF | ldVxK => cases h; split <;> exact .inr ⟨rfl, rfl⟩
  | _ => cases h; exact .inr ⟨rfl, rfl⟩

/-- Settles O45: a cycle that completes leaves `Halted` off, so one that halts raised its fault at the state before it. -/
theorem faultingCycleIsPrecise : Obligations.FaultingCycleIsPrecise := by
  intro i s t running h halted
  obtain ⟨cause, -, rfl⟩ | ⟨-, writes⟩ := exec_followsFaultTable h
  · obtain ⟨_, e, -, -, pc, opcode, -, frame⟩ := raise_haltsWith s cause (encode i) (faultAddr s cause)
    cases e
    exact ⟨pc, opcode, frame⟩
  · rw [writes] at halted
    exact absurd halted (by simp [State.withWrites, running])

/-- Settles O46: with SP in its legal range every instruction answers a next state, which follows the table. -/
theorem instructionsFaultExactlyAsTabled : Obligations.InstructionsFaultExactlyAsTabled := by
  intro i s legal
  obtain ⟨t, h⟩ := exec_answers i legal
  obtain ⟨cause, faults, rfl⟩ | ⟨noFault, writes⟩ := exec_followsFaultTable h
  · rw [faults, h]
    exact raise_haltsWith ..
  · rw [noFault]
    exact ⟨t, h, by rw [writes]; rfl, by rw [writes]; exact ⟨rfl, rfl, rfl, rfl⟩⟩

end Sys2Proof.Machine

/-! The host's reset, load, reload and lifecycle ports (70_reset_and_hazards.md R321 to R336). -/

namespace Sys2Proof.Machine

/-! ### `reset()` (R321) -/

/-- Settles O49: what `reset()` does not keep is as at power-on, and memory reads as its reset contents with the
machine's own font. -/
theorem resetPortResetsTheCore : Obligations.ResetPortResetsTheCore := by
  intro s es listed
  have zeroEntry (k : Fin 16) : State.reset.stack[k] = 0 := Vector.getElem_replicate _
  exact ⟨_, step_of_event listed, reset_reg, rfl, rfl, zeroEntry, rfl, rfl, rfl,
    fun k => unlisted_of_lt s.params.font k.isLt, fun _ above => unlisted_of_le s.params.font above, reset_pixel,
    rfl, rfl, rfl, rfl, rfl, rfl, rfl, rfl, rfl, rfl, rfl, rfl, rfl, rfl, rfl, rfl, rfl, rfl⟩

/-! ### `load(bytes)` and `reload()` (R330, R331) -/

/-- The core after a successful load of a ROM: a full reset, the ROM from 0x200, and the record of what is loaded. -/
def State.withRom (s : State) (rom : List Byte) : State :=
  { s.hostReset.storeBytes 0x200 rom with
    programSize := rom.length
    loaded := true
    lastRom := some rom
    outputs := .loadOk :: s.outputs }

theorem load_of_fits (s : State) {rom : List Byte} (fits : romFits rom) : s.load rom = s.withRom rom := if_pos fits

theorem load_of_not_fits (s : State) {rom : List Byte} (long : ¬romFits rom) :
    s.load rom = s.emit (.loadFailed .bufferTooLarge) := if_neg long

theorem reload_of_some {s : State} {rom : List Byte} (kept : s.lastRom = some rom) : s.reload = s.load rom := by
  rw [State.reload, kept]

theorem reload_of_none {s : State} (noRom : s.lastRom = none) : s.reload = s.emit (.loadFailed .noRom) := by
  rw [State.reload, noRom]

theorem byteAt_withRom_inside (s : State) {rom : List Byte} (fits : romFits rom) {k : Nat} (inside : k < rom.length) :
    (s.withRom rom).byteAt (0x200 + k) = rom[k] :=
  have room : rom.length ≤ 3584 := fits
  read_writeBytes_inside (wf_reset s.params.font) 0x200 rom inside (by omega)

theorem byteAt_withRom_outside (s : State) {rom : List Byte} {a : Nat}
    (outside : a < 0x200 ∨ 0x200 + rom.length ≤ a) : (s.withRom rom).byteAt a = Memory.unlisted s.params.font a :=
  read_writeBytes_outside _ _ 0x200 rom outside

theorem unlisted_eq_dite (font : Font) (a : Nat) : Memory.unlisted font a = if h : a < 80 then font[a] else 0 := by
  split
  · next inFont => exact unlisted_of_lt font inFont
  · next above => exact unlisted_of_le font (Nat.not_lt.mp above)

/-- A load leaves every part but these as at power-on. -/
theorem withRom_frame (s : State) (rom : List Byte) :
    UnchangedExcept [.mem, .programSize, .loaded, .lastRom, .keys, .params, .draws, .events, .outputs] State.reset
      (s.withRom rom) := by
  intro p unlisted
  cases p with
  | mem | programSize | loaded | lastRom | keys | params | draws | events | outputs => simp at unlisted
  | v => exact fun _ => rfl
  | fb => exact fun _ _ => rfl
  | haltRecord => exact ⟨rfl, rfl, rfl, rfl⟩
  | _ => rfl

/-- Settles O50: a ROM fits or does not; one that fits is all that a load adds to the core after reset. -/
theorem loadPortPlacesTheRom : Obligations.LoadPortPlacesTheRom := by
  intro s es rom listed
  refine ⟨fun long => ?_, fun fits => ?_⟩
  · exact step_of_query listed (congrArg _ (load_of_not_fits _ (Nat.not_le.mpr long)))
  · let s' : State := { s with events := es }
    have loads : step s = .next (s'.withRom rom) := (step_of_event listed).trans (congrArg _ (load_of_fits s' fits))
    refine ⟨_, loads, rfl, rfl, fun k inside => ?_, fun a outside => ?_, rfl, rfl, rfl, rfl, rfl, rfl,
      withRom_frame s' rom⟩
    · rw [byteAt_withRom_inside s' fits inside, List.getElem?_eq_getElem inside]
    · rw [byteAt_withRom_outside s' outside, unlisted_eq_dite]

/-- Settles O51: `reload()` is a load of `LastRom`, and the memory after a load depends on the ROM and the font
alone. -/
theorem reloadReproducesTheMemoryImage : Obligations.ReloadReproducesTheMemoryImage := by
  refine ⟨fun s s' t t' es es' rom fits params listed h listed' kept h' => ?_, fun s es listed noRom => ?_⟩
  · have loads : t = State.withRom { s with events := es } rom := by
      cases (step_of_event listed).symm.trans h
      exact load_of_fits _ fits
    have reloads : t' = State.withRom { s' with events := es' } rom := by
      cases (step_of_event listed').symm.trans h'
      exact (reload_of_some (s := { s' with events := es' }) kept).trans (load_of_fits _ fits)
    have mem : t'.mem = t.mem := by
      rw [loads, reloads]
      exact congrArg (fun p : Params => State.reset.mem.writeBytes p.font 0x200 rom) params
    have sameParams : t'.params = t.params := by rw [loads, reloads]; exact params
    refine ⟨mem, fun a => ?_, ?_⟩
    · rw [State.byteAt, State.byteAt, mem, sameParams]
    · rw [loads, reloads]
      exact ⟨rfl, rfl, rfl⟩
  · exact step_of_query listed (congrArg Host.Outcome.next (reload_of_none (s := { s with events := es }) noRom))

/-! ### `start()`, `stop()`, `pause()` and `resume()` (R335, R336) -/

theorem startEnabled_iff (s : State) :
    s.startEnabled = true ↔ s.loaded = true ∧ s.alive = false ∧ s.halted = false := by
  simp [State.startEnabled, and_assoc]

theorem stepEnabled_iff (s : State) : s.stepEnabled = true ↔ s.alive = true ∧ s.halted = false := by
  simp [State.stepEnabled]

/-- `start()` as one record update. -/
theorem start_eq (s : State) :
    s.start = { s with
      alive := if s.loaded = true ∧ s.alive = false ∧ s.halted = false then true else s.alive
      paused := if s.loaded = true ∧ s.alive = false ∧ s.halted = false then false else s.paused } := by
  simp only [State.start, startEnabled_iff]
  split <;> rfl

/-- `pause()` as one record update. -/
theorem pause_eq (s : State) :
    s.pause = { s with paused := if s.alive = true ∧ s.halted = false then true else s.paused } := by
  have enabled : (s.alive && !s.halted) = true ↔ s.alive = true ∧ s.halted = false := stepEnabled_iff s
  simp only [State.pause, enabled]
  split <;> rfl

/-- Settles O52: each port is one update of `Alive` and `Paused`. -/
theorem lifecyclePortsMoveTheRunFlags : Obligations.LifecyclePortsMoveTheRunFlags := by
  intro s es
  refine ⟨fun listed => ?_, fun listed => ?_, fun listed => ?_, fun listed => ?_⟩
  · have starts : step s = .next (State.start { s with events := es }) := step_of_event listed
    rw [starts, start_eq]
    refine ⟨_, rfl, rfl, unchangedExcept_of_hostParts rfl, ?_⟩
    split <;> exact ⟨rfl, rfl⟩
  · exact ⟨_, step_of_event listed, rfl, unchangedExcept_of_hostParts rfl, rfl⟩
  · have pauses : step s = .next (State.pause { s with events := es }) := step_of_event listed
    rw [pauses, pause_eq]
    exact ⟨_, rfl, rfl, unchangedExcept_of_hostParts rfl, rfl⟩
  · exact ⟨_, step_of_event listed, rfl, unchangedExcept_of_hostParts rfl, rfl⟩

end Sys2Proof.Machine

/-! The view of the run flags, and the diagram of the events that move it (10_state.md R31, 70_reset_and_hazards.md
R337). -/

namespace Sys2Proof.Machine

/-! ### The view as a function of the flags (10_state.md R31) -/

theorem view_of_halted {s : State} (halted : s.halted = true) : s.view = .halted := if_pos halted

theorem view_of_idle {s : State} (running : s.halted = false) (stopped : s.alive = false) : s.view = .idle := by
  simp [State.view, running, stopped]

theorem view_of_paused {s : State} (on : s.alive = true ∧ s.halted = false) (paused : s.paused = true) :
    s.view = .paused := by
  simp [State.view, on, paused]

theorem view_of_unpaused {s : State} (on : s.alive = true ∧ s.halted = false) (unpaused : s.paused = false) :
    s.view = if s.waitKey then .waitingForKey else .running := by
  simp [State.view, on, unpaused]

theorem view_ne_of_on {s : State} (on : s.alive = true ∧ s.halted = false) :
    s.view ≠ .idle ∧ s.view ≠ .halted := by
  cases paused : s.paused with
  | true => rw [view_of_paused on paused]; decide
  | false => rw [view_of_unpaused on paused]; cases s.waitKey <;> decide

theorem view_of_off {s : State} (off : ¬(s.alive = true ∧ s.halted = false)) :
    s.view = if s.halted then .halted else .idle := by
  cases halted : s.halted with
  | true => exact view_of_halted halted
  | false => exact view_of_idle halted (by simpa [halted] using off)

/-! ### The diagram of the view (R337) -/

/-- The views of an alive core that is neither halted nor paused. -/
abbrev View.Executes (v : View) : Prop := v = .running ∨ v = .waitingForKey

theorem executes_of_unpaused {s : State} (on : s.alive = true ∧ s.halted = false) (unpaused : s.paused = false) :
    s.view.Executes := by
  rw [view_of_unpaused on unpaused]
  exact (ite_eq_or_eq ..).symm

/-- How an event moves the view of a core with these flags: along one edge of the diagram of R337, or not at all. -/
inductive ViewMove (e : Event) (loaded waitKey : Bool) : View → View → Prop
  | stays {v : View} : ViewMove e loaded waitKey v v
  | resets {v : View} (event : IsReset e) : ViewMove e loaded waitKey v .idle
  | halts {v : View} (event : e = .cycle ∨ e = .step) (on : v ≠ .idle ∧ v ≠ .halted) :
      ViewMove e loaded waitKey v .halted
  | executes {v w : View} (event : e = .cycle ∨ e = .step) (before : v.Executes) (after : w.Executes) :
      ViewMove e loaded waitKey v w
  | starts (event : e = .start) (isLoaded : loaded = true) :
      ViewMove e loaded waitKey .idle (if waitKey then .waitingForKey else .running)
  | stops {v : View} (event : e = .stop) (on : v ≠ .idle ∧ v ≠ .halted) : ViewMove e loaded waitKey v .idle
  | pauses {v : View} (event : e = .pause) (on : v ≠ .idle ∧ v ≠ .halted) : ViewMove e loaded waitKey v .paused
  | resumes {w : View} (event : e = .resume) (after : w.Executes) : ViewMove e loaded waitKey .paused w

/-- The event `e` that took `s` to `t` moved the view so. -/
abbrev MovesView (e : Event) (s t : State) : Prop := ViewMove e s.loaded s.waitKey s.view t.view

/-- A Cycle, once it is enabled, halts the core or leaves `Alive` and `Paused` (60_exceptions.md R294). -/
theorem cycle_if_movesView {e : Event} {enabled : Bool} {s t : State} (event : e = .cycle ∨ e = .step)
    (runs : enabled = true → s.alive = true ∧ s.halted = false)
    (h : (if enabled then cycle s else .next s) = .next t) : MovesView e s t := by
  split at h
  · next enabled =>
    have on := runs enabled
    have raised (cause : HaltCause) (op addr : Word) : MovesView e s (s.raise cause op addr) :=
      .halts event (view_ne_of_on on)
    refine cycle_induction h raised fun i executes => ?_
    obtain ⟨cause, op, addr, -, rfl⟩ | ⟨-, -, -, control⟩ := exec_cases executes
    · exact raised cause op addr
    · have stillOn : t.alive = true ∧ t.halted = false := by rwa [control.alive, control.halted]
      cases paused : s.paused with
      | true =>
        rw [MovesView, view_of_paused on paused, view_of_paused stillOn (control.paused.trans paused)]
        exact .stays
      | false =>
        exact .executes event (executes_of_unpaused on paused)
          (executes_of_unpaused stillOn (control.paused.trans paused))
  · cases h; exact .stays

theorem load_movesView {e : Event} (event : IsReset e) (s : State) (rom : List Byte) : MovesView e s (s.load rom) := by
  by_cases fits : romFits rom
  · rw [load_of_fits s fits]; exact .resets event
  · rw [load_of_not_fits s fits]; exact .stays

theorem reload_movesView (s : State) : MovesView .reload s s.reload := by
  cases kept : s.lastRom with
  | some rom => rw [reload_of_some kept]; exact load_movesView (.inr (.inr rfl)) s rom
  | none => rw [reload_of_none kept]; exact .stays

theorem start_movesView (s : State) : MovesView .start s s.start := by
  unfold State.start
  split
  · next enabled =>
    obtain ⟨loaded, stopped, running⟩ := (startEnabled_iff s).mp enabled
    have next : State.view { s with alive := true, paused := false } = if s.waitKey then .waitingForKey else .running :=
      view_of_unpaused ⟨rfl, running⟩ rfl
    rw [MovesView, view_of_idle running stopped, next]
    exact .starts rfl loaded
  · exact .stays

/-- A core that is off stays off under an event that leaves `Halted` and does not set `Alive`. -/
theorem movesView_of_off {e : Event} {s t : State} (before : ¬(s.alive = true ∧ s.halted = false))
    (after : ¬(t.alive = true ∧ t.halted = false)) (halted : t.halted = s.halted) : MovesView e s t := by
  rw [MovesView, view_of_off before, view_of_off after, halted]
  exact .stays

theorem stop_movesView (s : State) : MovesView .stop s s.stop := by
  by_cases on : s.alive = true ∧ s.halted = false
  · have idle : s.stop.view = .idle := view_of_idle on.2 rfl
    rw [MovesView, idle]
    exact .stops rfl (view_ne_of_on on)
  · exact movesView_of_off on nofun rfl

theorem pause_movesView (s : State) : MovesView .pause s s.pause := by
  unfold State.pause
  split
  · next enabled =>
    have on := (stepEnabled_iff s).mp enabled
    have next : State.view { s with paused := true } = .paused := view_of_paused on rfl
    rw [MovesView, next]
    exact .pauses rfl (view_ne_of_on on)
  · exact .stays

theorem resume_movesView (s : State) : MovesView .resume s s.resume := by
  by_cases on : s.alive = true ∧ s.halted = false
  · cases paused : s.paused with
    | true =>
      rw [MovesView, view_of_paused on paused]
      exact .resumes rfl (executes_of_unpaused on rfl)
    | false =>
      have next : s.resume.view = if s.waitKey then .waitingForKey else .running := view_of_unpaused on rfl
      rw [MovesView, next, view_of_unpaused on paused]
      exact .stays
  · exact movesView_of_off on on rfl

/-- Every event that answers a next state takes an edge of the diagram or none. -/
theorem perform_movesView {e : Event} {s t : State} (h : perform e s = .next t) : MovesView e s t := by
  cases e with
  | cycle => exact cycle_if_movesView (.inl rfl) (by simp +contextual [State.cycleEnabled]) h
  | step => exact cycle_if_movesView (.inr rfl) (stepEnabled_iff s).mp h
  | tick =>
    cases h
    split
    · rw [tick_eq]; exact .stays
    · exact .stays
  | reset => cases h; exact .resets (.inl rfl)
  | load rom => cases h; exact load_movesView (.inr (.inl ⟨rom, rfl⟩)) s rom
  | reload => cases h; exact reload_movesView s
  | start => cases h; exact start_movesView s
  | stop => cases h; exact stop_movesView s
  | pause => cases h; exact pause_movesView s
  | resume => cases h; exact resume_movesView s
  | _ => cases h; exact .stays

/-- Settles O53: a step performs one event, and each edge of the diagram satisfies every clause. -/
theorem onlyTheseEventsMoveTheView : Obligations.OnlyTheseEventsMoveTheView := by
  intro s t h e next
  have move : MovesView e s t := next ▸ perform_movesView (s := s.takeEvent) (perform_of_step h)
  clear h next
  rw [MovesView] at move
  generalize s.loaded = loaded, s.waitKey = waitKey, s.view = v, t.view = w at move ⊢
  cases move with
  | stays => simp +contextual
  | resets event => obtain rfl | ⟨rom, rfl⟩ | rfl := event <;> simp
  | halts event on => simp [event, on]
  | executes event before after => obtain rfl | rfl := before <;> obtain rfl | rfl := after <;> simp [event]
  | starts event isLoaded => cases waitKey <;> simp [event, isLoaded]
  | stops event on => simp [event, on]
  | pauses event on => simp [event, on]
  | resumes event after => obtain rfl | rfl := after <;> simp [event]

end Sys2Proof.Machine
